-- ==== Sys2Proof/Word.lean ====
section
/-! DEFINITION. The two word types of the block (00_scope.md R13): the byte of every stream and the 16-bit
register. Every other quantity of the spec is an unbounded natural number or a sequence. -/
namespace Sys2Proof

/-- A byte: what every stream holds (R13, R69). -/
abbrev Byte := BitVec 8

/-- A u16: a register of a bank, the CRC accumulator, a 16-bit field of a frame (R10, R13). -/
abbrev Word := BitVec 16

end Sys2Proof
end

