-- ==== Sys2Proof/Machine/Bytes.lean ====
section
/-! DEFINITION. Byte order and sequences (00_scope.md R13, R14; 20_memory.md R60 to R63): the halves of a u16, its
assembly from two bytes, and `last(n, s)`. -/
namespace Sys2Proof

/-- `hi8(v)` (R13). -/
def hi8 (v : Word) : Byte := v.extractLsb' 8 8

/-- `lo8(v)` (R13). -/
def lo8 (v : Word) : Byte := v.extractLsb' 0 8

/-- `be16(h, l) = 256*h + l` (R13). -/
def be16 (h l : Byte) : Word := h ++ l

/-- `last(n, s)` (R14): the last `n` elements, or the whole of a shorter sequence. -/
def lastN {α : Type} (n : Nat) (s : List α) : List α := s.drop (s.length - n)

/-- Registers as bytes: each word high byte first, lowest address first (R61, 30_encoding.md R100). -/
def wordsToBytes : List Word → List Byte
  | [] => []
  | v :: vs => hi8 v :: lo8 v :: wordsToBytes vs

/-- Bytes as registers, the inverse of `wordsToBytes`; a last odd byte is not a register. -/
def bytesToWords : List Byte → List Word
  | h :: l :: bs => be16 h l :: bytesToWords bs
  | _ => []

/-- One byte of a bit data block: bit `k` is `f k` (30_encoding.md R101). -/
def packByte (f : Nat → Bool) : Byte :=
  (List.range 8).foldl (fun acc k => if f k then acc ||| (1#8 <<< k) else acc) 0#8

/-- `ceil(n / 8)`, the byte-count of `n` packed booleans (R101). -/
def bitBytes (n : Nat) : Nat := (n + 7) / 8

/-- Booleans packed, value `i` in bit `i mod 8` of byte `i div 8`, unused high bits 0 (R101). -/
def packBits (values : List Bool) : List Byte :=
  (List.range (bitBytes values.length)).map fun j => packByte fun k => values.getD (8 * j + k) false

/-- The first `count` packed booleans; unused high bits are ignored (R101). -/
def unpackBits (count : Nat) (bytes : List Byte) : List Bool :=
  (List.range count).map fun i => (bytes.getD (i / 8) 0#8).getLsbD (i % 8)

end Sys2Proof
end

