-- ==== Sys2Proof/Machine/Crc.lean ====
section
/-! DEFINITION. The CRC-16/Modbus function (40_crc16.md R131, R133). -/
namespace Sys2Proof

/-- One round (R131): bit 0 is tested before the shift; the shift is logical. -/
def crcRound (acc : Word) : Word :=
  if acc.getLsbD 0 then (acc >>> 1) ^^^ 0xA001#16 else acc >>> 1

/-- `n` rounds. -/
def crcRounds : Nat → Word → Word
  | 0, acc => acc
  | n + 1, acc => crcRounds n (crcRound acc)

/-- One byte into the accumulator (R133): the byte enters bits 7..0, then eight rounds. -/
def crcUpdate (acc : Word) (b : Byte) : Word := crcRounds 8 (acc ^^^ b.setWidth 16)

/-- `crc16(bs)` (R131): initial value 0xFFFF, the bytes in order, no final step. -/
def crc16 (bs : List Byte) : Word := bs.foldl crcUpdate 0xFFFF#16

end Sys2Proof
end

