-- ==== Sys2Proof/Machine/Frame.lean ====
section
/-! DEFINITION. The wire formats and the frame parser: format RTU and its checks (30_encoding.md R90, R98;
43_frame_parser.md R235 to R240), the RTU master's completeness test (45_masters.md R306), format TCP with its
delimiter and header check (R91, R99; R241 to R243). Everything here is a pure function of bytes. -/
namespace Sys2Proof

/-- A body followed by its CRC, low byte first (20_memory.md R60, 30_encoding.md R98). -/
def sealFrame (body : List Byte) : List Byte := body ++ [lo8 (crc16 body), hi8 (crc16 body)]

/-- Format RTU (R90). -/
def rtuFrame (unit fc : Byte) (data : List Byte) : List Byte := sealFrame (unit :: fc :: data)

/-- Whether bit 7, the exception bit, is set (R90, R110). -/
def exceptionBit (fc : Byte) : Bool := fc.getLsbD 7

/-- Why a frame is rejected (43_frame_parser.md R239). -/
inductive RejectReason
  | tooShort | badCrc | otherUnit
deriving DecidableEq, Repr

/-- The fields of an accepted RTU frame (R239). -/
structure RtuPdu where
  unit : Byte
  fc : Byte
  data : List Byte
deriving DecidableEq, Repr

/-- `rtuCrcOk(F)` (R237): the CRC of all bytes before the trailer equals the trailer, whose first byte is the low one. -/
def rtuCrcOk (frame : List Byte) : Bool :=
  crc16 (frame.take (frame.length - 2)) ==
    be16 (frame.getD (frame.length - 1) 0#8) (frame.getD (frame.length - 2) 0#8)

/-- The fields of an RTU frame (R90). -/
def rtuFields (frame : List Byte) : RtuPdu where
  unit := frame.getD 0 0#8
  fc := frame.getD 1 0#8
  data := (frame.take (frame.length - 2)).drop 2

/-- The length check, then the CRC check (R235, R237): what a frame must pass before any byte of it is interpreted. -/
def rtuOpen (frame : List Byte) : Except RejectReason RtuPdu :=
  if frame.length < 4 then .error .tooShort
  else if rtuCrcOk frame then .ok (rtuFields frame)
  else .error .badCrc

/-- `rtuCheck(F, a)` (R239): length, CRC, address, in this order. -/
def rtuCheck (frame : List Byte) (a : Byte) : Except RejectReason RtuPdu :=
  match rtuOpen frame with
  | .error r => .error r
  | .ok p => if p.unit = a then .ok p else .error .otherUnit

/-- What `pduClass` answers (R240). -/
inductive PduClass
  | exception (fc code : Byte)
  | normal (fc : Byte) (data : List Byte)
deriving DecidableEq, Repr

/-- `pduClass(fc, data)` (R240). An exception PDU with no code byte cannot be classified as one; it stays with its
function code, which R307 then refuses. -/
def pduClass (fc : Byte) (data : List Byte) : PduClass :=
  match exceptionBit fc, data with
  | true, code :: _ => .exception (fc &&& 0x7F#8) code
  | true, [] => .normal fc []
  | false, data => .normal fc data

/-- `rtuComplete(buf)` (45_masters.md R306): the length of the response at the front of `buf`, once it is all there. -/
def rtuComplete (buf : List Byte) : Option Nat :=
  match buf with
  | _ :: fc :: n :: _ =>
    let whole (len : Nat) : Option Nat := if len ≤ buf.length then some len else none
    if exceptionBit fc then whole 5
    else if fc = 0x01#8 ∨ fc = 0x02#8 ∨ fc = 0x03#8 ∨ fc = 0x04#8 then whole (3 + n.toNat + 2)
    else if fc = 0x05#8 ∨ fc = 0x06#8 ∨ fc = 0x0F#8 ∨ fc = 0x10#8 then whole 8
    else none
  | _ => none

/-- Format TCP (30_encoding.md R91, R99): the length field counts unit, function code and data. -/
def tcpFrame (txn : Word) (unit fc : Byte) (data : List Byte) : List Byte :=
  let n : Word := BitVec.ofNat 16 (data.length + 2)
  [hi8 txn, lo8 txn, 0x00#8, 0x00#8, hi8 n, lo8 n, unit, fc] ++ data

/-- The fields of a TCP frame (43_frame_parser.md R242). -/
structure MbapFields where
  txn : Word
  proto : Word
  len : Word
  unit : Byte
  fc : Byte
  data : List Byte
deriving DecidableEq, Repr

/-- `mbapFields(frame)` (R242), for a frame of at least 8 bytes. -/
def mbapFields (frame : List Byte) : MbapFields where
  txn := be16 (frame.getD 0 0#8) (frame.getD 1 0#8)
  proto := be16 (frame.getD 2 0#8) (frame.getD 3 0#8)
  len := be16 (frame.getD 4 0#8) (frame.getD 5 0#8)
  unit := frame.getD 6 0#8
  fc := frame.getD 7 0#8
  data := frame.drop 8

/-- `mbapSplit(buf)` (R241): the first frame and the rest, or `none` for NeedMore. -/
def mbapSplit (buf : List Byte) : Option (List Byte × List Byte) :=
  let len := (be16 (buf.getD 4 0#8) (buf.getD 5 0#8)).toNat
  if buf.length < 6 then none
  else if buf.length < 6 + len then none
  else some (buf.take (6 + len), buf.drop (6 + len))

/-- The header test of R243: transaction-id, protocol-id 0, unit-id. -/
def headerMatches (txn proto : Word) (unit : Byte) (t : Word) (u : Byte) : Bool :=
  txn == t && proto == 0#16 && unit == u

/-- `mbapMatch(frame, t, u)` (R243): the function code and data of a frame that answers the request, or `none` for
Mismatch. -/
def mbapMatch (frame : List Byte) (t : Word) (u : Byte) : Option (Byte × List Byte) :=
  let f := mbapFields frame
  if frame.length < 8 then none
  else if headerMatches f.txn f.proto f.unit t u then some (f.fc, f.data)
  else none

/-- What the loop of `TcpPoll` finds in the bytes it holds (45_masters.md R323): the first matching frame, if any, and
the bytes not consumed. -/
structure MbapScan where
  found : Option (Byte × List Byte)
  rest : List Byte
deriving DecidableEq, Repr

/-- The loop of R323, where `accept` gives the function code and data of a frame that ends it. Each turn that goes on consumes
at least six bytes, so `fuel` equal to the number of bytes is enough. -/
def mbapScanFuel (accept : List Byte → Option (Byte × List Byte)) : Nat → List Byte → MbapScan
  | 0, buf => ⟨none, buf⟩
  | fuel + 1, buf =>
    match mbapSplit buf with
    | none => ⟨none, buf⟩
    | some (frame, rest) =>
      match accept frame with
      | some m => ⟨some m, rest⟩
      | none => mbapScanFuel accept fuel rest

/-- The loop of R323 over a whole buffer, for the request with transaction-id `t` to unit-id `u`. -/
def mbapScan (buf : List Byte) (t : Word) (u : Byte) : MbapScan := mbapScanFuel (mbapMatch · t u) buf.length buf

end Sys2Proof
end

