-- ==== Sys2Proof/Config.lean ====
section
/-! DEFINITION. The parameters of 00_scope.md R8 to R12. A parameter the spec lets a model take as an argument is a
field of `Params`, which State carries and no step writes (log 8); a protocol limit is a constant. -/
namespace Sys2Proof

/-- The parameters fixed for a run (R8, R9, R12, R56). Those that are configuration registers of the block
(`CAN_QCAP`, `CAN_VCAP`, `FRAME_GAP_MS`, the two timeouts) and the bank length stand in State under their own names. -/
structure Params where
  /-- READ_CAP, bytes (R8, D5). -/
  readCap : Nat
  /-- WRITE_CHUNK, bytes (R8, D5). -/
  writeChunk : Nat
  /-- OVF_NOTIFY_EVERY, drops (R8, D19). -/
  ovfNotifyEvery : Nat
  /-- CAN_IDLE_SLEEP_MS (R9). -/
  canIdleSleepMs : Nat
  /-- JOIN_TIMEOUT_MS (R9). -/
  joinTimeoutMs : Nat
  /-- LINE_TERM (R12, D11). -/
  lineTerm : Byte
  /-- MAX_READ_BITS, OPEN in the spec (R10, D52). -/
  maxReadBits : Nat
deriving DecidableEq, Repr

/-- READ_KEEP = READ_CAP / 2 (R8). -/
def Params.readKeep (p : Params) : Nat := p.readCap / 2

/-- The value column of R8, R9, R12: the values this hardware takes. -/
def Config.params : Params where
  readCap := 65536
  writeChunk := 4096
  ovfNotifyEvery := 100
  canIdleSleepMs := 10
  joinTimeoutMs := 3000
  lineTerm := 0x0A#8
  maxReadBits := 2000

/-- CAN_QCAP at reset (R8, R29). -/
def Config.canQcap : Nat := 1000
/-- CAN_VCAP at reset (R8, R29). -/
def Config.canVcap : Nat := 1000
/-- BANK_LEN (R8, R40): the length both banks are created with. -/
def Config.bankLen : Nat := 256
/-- BANK_RESET (R12, R40, D35). -/
def Config.bankReset : Word := 0x0000#16
/-- FRAME_GAP_MS (R9, R35). -/
def Config.frameGapMs : Nat := 50
/-- RTU_TIMEOUT_MS (R9, R43). -/
def Config.rtuTimeoutMs : Nat := 1000
/-- TCP_TIMEOUT_MS (R9, R44). -/
def Config.tcpTimeoutMs : Nat := 3000
/-- TXN_RESET (R12, R44, D42). -/
def Config.txnReset : Word := 0x0000#16

/-- ADDR_MIN (R10). -/
def Config.addrMin : Nat := 1
/-- ADDR_MAX (R10). -/
def Config.addrMax : Nat := 247
/-- MAX_READ_REGS (R10): function codes 0x03 and 0x04. -/
def Config.maxReadRegs : Nat := 125
/-- MAX_WRITE_REGS (R10): function code 0x10. -/
def Config.maxWriteRegs : Nat := 123
/-- MAX_WRITE_COILS (R10): function code 0x0F. -/
def Config.maxWriteCoils : Nat := 1968

/-- The value the model gives `SL.ADDR`, `RM.UNIT`, `TM.UNIT` at reset. DESIGN CHOICE (log 4): the spec gives none;
1 is the lowest legal address (R10) and the one its examples use. -/
def Config.unitReset : Byte := 0x01#8

end Sys2Proof
end

