-- ==== Sys2Proof/Syntax.lean ====
section
/-! DEFINITION. The operations of the block: `Instr` has one constructor for each of the 76 rows of
spec/opcode_table.json, in the table's order, and the operand types stand before it. -/
namespace Sys2Proof

/-- Which Byte-Stream Channel instance (10_state.md R20, R37): the host's own `BS`, `SL.BS`, `RM.BS`. -/
inductive Chan
  | host | slave | master
deriving DecidableEq, Repr

/-- The parity operand (30_encoding.md R122). `illegal` is any value outside the legal set, which `open` refuses (R152). -/
inductive Parity
  | none | even | odd | illegal
deriving DecidableEq, Repr

/-- The serial configuration record `{baud, data_bits, parity, stop_bits}` (10_state.md R25). -/
structure SerialCfg where
  baud : Nat
  dataBits : Nat
  parity : Parity
  stopBits : Nat
deriving DecidableEq, Repr

/-- What the environment draws when the device is opened (41_bytestream.md R152). -/
inductive OpenDraw
  | ok | deviceNotFound | permission | openFailure
deriving DecidableEq, Repr

/-- The kinds `ChanError` can carry (41_bytestream.md R169). -/
inductive DeviceError
  | readError | writeError | resourceGone | timeout
deriving DecidableEq, Repr

/-- The frame kinds of a CAN frame (10_state.md R34). -/
inductive FrameKind
  | data | remote | error
deriving DecidableEq, Repr

/-- A CanFrame (10_state.md R34, 30_encoding.md R93): an abstract record, with no packed layout. -/
structure CanFrame where
  id : Nat
  ext : Bool
  kind : FrameKind
  data : List Byte
deriving DecidableEq, Repr

/-- The three Modbus exceptions a slave raises (60_exceptions.md R340). -/
inductive ExceptionCode
  | illegalFunction | illegalDataAddress | illegalDataValue
deriving DecidableEq, Repr

/-- Which master an accepted response belongs to. -/
inductive Link
  | rtu | tcp
deriving DecidableEq, Repr

/-- The two fields a read request carries on the wire (30_encoding.md R102 to R105). -/
structure ReadReq where
  start : Word
  count : Word
deriving DecidableEq, Repr

/-- The operands of writeSingleCoil (30_encoding.md R106). -/
structure CoilReq where
  addr : Word
  on : Bool
deriving DecidableEq, Repr

/-- The operands of writeSingleRegister (30_encoding.md R107). -/
structure RegReq where
  addr : Word
  value : Word
deriving DecidableEq, Repr

/-- The operands of writeMultipleCoils (30_encoding.md R108). -/
structure CoilsReq where
  start : Word
  values : List Bool
deriving DecidableEq, Repr

/-- The operands of writeMultipleRegisters (30_encoding.md R109). -/
structure RegsReq where
  start : Word
  values : List Word
deriving DecidableEq, Repr

/-- The MBAP fields a TCP response is matched by (43_frame_parser.md R243). -/
structure TcpHeader where
  txn : Word
  proto : Word
  unit : Byte
deriving DecidableEq, Repr

/-- A wire opcode of a master has two forms: the request it encodes and the response it decodes
(30_encoding.md R110). -/
inductive RtuMsg (Req : Type)
  /-- The master puts the request on the line (45_masters.md R301, R303). -/
  | request (q : Req)
  /-- A response frame, complete and CRC-valid, with this unit address and payload (R305, R307). -/
  | response (unit : Byte) (data : List Byte)
deriving DecidableEq, Repr

/-- The same for the TCP master (45_masters.md R320, R321, R323). -/
inductive TcpMsg (Req : Type)
  /-- The master hands the request to the stream. -/
  | request (q : Req)
  /-- A frame cut from the stream, with this header and payload. -/
  | response (h : TcpHeader) (data : List Byte)
deriving DecidableEq, Repr

/-- One constructor per row of spec/opcode_table.json. -/
inductive Instr
  -- wire, executed by the RTU slave (44_rtu_slave.md)
  | slvReadHoldingRegisters (unit : Byte) (data : List Byte)
  | slvReadInputRegisters (unit : Byte) (data : List Byte)
  | slvWriteSingleRegister (unit : Byte) (data : List Byte)
  | slvWriteMultipleRegisters (unit : Byte) (data : List Byte)
  | slvUnsupportedFunction (unit fc : Byte) (data : List Byte)
  -- wire, sent by the RTU slave
  | exceptionResponseBuild (fc : Byte) (code : ExceptionCode)
  -- wire, encoded and decoded by the RTU master (45_masters.md)
  | rtuReadCoils (m : RtuMsg ReadReq)
  | rtuReadDiscreteInputs (m : RtuMsg ReadReq)
  | rtuReadHoldingRegisters (m : RtuMsg ReadReq)
  | rtuReadInputRegisters (m : RtuMsg ReadReq)
  | rtuWriteSingleCoil (m : RtuMsg CoilReq)
  | rtuWriteSingleRegister (m : RtuMsg RegReq)
  | rtuWriteMultipleCoils (m : RtuMsg CoilsReq)
  | rtuWriteMultipleRegisters (m : RtuMsg RegsReq)
  -- wire, encoded and decoded by the TCP master
  | tcpReadCoils (m : TcpMsg ReadReq)
  | tcpReadDiscreteInputs (m : TcpMsg ReadReq)
  | tcpReadHoldingRegisters (m : TcpMsg ReadReq)
  | tcpReadInputRegisters (m : TcpMsg ReadReq)
  | tcpWriteSingleCoil (m : TcpMsg CoilReq)
  | tcpWriteSingleRegister (m : TcpMsg RegReq)
  | tcpWriteMultipleCoils (m : TcpMsg CoilsReq)
  | tcpWriteMultipleRegisters (m : TcpMsg RegsReq)
  -- wire, decoded by both masters
  | exceptionResponseDecode (link : Link) (fc code : Byte)
  -- host operations (30_encoding.md R111)
  | crcInit
  | crcByte (b : Byte)
  | crcRead
  | crc16 (bytes : List Byte)
  | bsOpen (c : Chan) (config : SerialCfg) (draw : OpenDraw)
  | bsClose (c : Chan)
  | bsWrite (c : Chan) (bytes : List Byte)
  | bsReadAvailable (c : Chan)
  | bsReadLine (c : Chan)
  | bsBytesAvailable (c : Chan)
  | bsWaitReady (c : Chan) (timeout : Nat)
  | canStart
  | canStop
  | canReadFrame
  | canReadAllFrames
  | canBufferedCount
  | canReceivedCount
  | canDroppedCount
  | slSetHoldingRegister (addr : Nat) (value : Word)
  | slGetHoldingRegister (addr : Nat)
  | slSetInputRegister (addr : Nat) (value : Word)
  | slGetInputRegister (addr : Nat)
  | rmReadCoils (start count : Nat)
  | rmReadDiscreteInputs (start count : Nat)
  | rmReadHoldingRegisters (start count : Nat)
  | rmReadInputRegisters (start count : Nat)
  | rmWriteSingleCoil (addr : Nat) (on : Bool)
  | rmWriteSingleRegister (addr : Nat) (value : Word)
  | rmWriteMultipleCoils (start : Nat) (values : List Bool)
  | rmWriteMultipleRegisters (start : Nat) (values : List Word)
  | tmReadCoils (start count : Nat)
  | tmReadDiscreteInputs (start count : Nat)
  | tmReadHoldingRegisters (start count : Nat)
  | tmReadInputRegisters (start count : Nat)
  | tmWriteSingleCoil (addr : Nat) (on : Bool)
  | tmWriteSingleRegister (addr : Nat) (value : Word)
  | tmWriteMultipleCoils (start : Nat) (values : List Bool)
  | tmWriteMultipleRegisters (start : Nat) (values : List Word)
  | tmConnect (ok : Bool)
  | tmDisconnect
  -- environment events and internal agent steps (30_encoding.md R112)
  | tick (dt : Nat)
  | bsRxBytes (c : Chan) (bytes : List Byte)
  | bsTxDrain (c : Chan) (k : Nat)
  | bsChanError (c : Chan) (kind : DeviceError)
  | canArrive (f : CanFrame)
  | canThreadStep
  | canNormalDrain
  | slSlaveRx
  | slGapFire
  | rmMasterPoll
  | tmTcpRx (bytes : List Byte)
  | tmTcpPoll
  | tmTcpPeerClose
deriving DecidableEq, Repr

end Sys2Proof
end

