-- ==== Sys2Proof/WellFormed.lean ====
section
/-! DEFINITION. Which terms of `Instr` are operations of the block: the operand ranges that do not depend on the
state. A range that a host operation tests itself and answers with its failure result (a count, a start address, a
register address, a serial configuration) is not a condition here: such an operation is well formed and runs. -/
namespace Sys2Proof

/-- A CanFrame a conforming device delivers (10_state.md R34, 30_encoding.md R117): at most 8 bytes, and the identifier
fits the width its flag gives. -/
def CanFrame.wf (f : CanFrame) : Bool :=
  decide (f.data.length ≤ 8) && decide (f.id < if f.ext then 2 ^ 29 else 2 ^ 11)

/-- The function codes the slave supports (44_rtu_slave.md R260). -/
def slaveSupports (fc : Byte) : Bool :=
  fc == 0x03#8 || fc == 0x04#8 || fc == 0x06#8 || fc == 0x10#8

/-- The operand conditions of the opcode table and of the rules that name an operand's set:
`Tick(dt)` has `dt >= 1` (R368), arrivals are not empty (R157, R327), a drain takes at least one byte (R162), a CAN
frame is one a device delivers (R117), the unsupported-function row covers the codes outside the four (R265), and an
exception PDU's function code is named with bit 7 clear (R240). -/
def Instr.wf : Instr → Bool
  | .tick dt => decide (1 ≤ dt)
  | .bsRxBytes _ bytes => !bytes.isEmpty
  | .tmTcpRx bytes => !bytes.isEmpty
  | .bsTxDrain _ k => decide (1 ≤ k)
  | .canArrive f => f.wf
  | .slvUnsupportedFunction _ fc _ => !slaveSupports fc
  | .exceptionResponseDecode _ fc _ => !fc.getLsbD 7
  | .slvReadHoldingRegisters _ _ => true
  | .slvReadInputRegisters _ _ => true
  | .slvWriteSingleRegister _ _ => true
  | .slvWriteMultipleRegisters _ _ => true
  | .exceptionResponseBuild _ _ => true
  | .rtuReadCoils _ => true
  | .rtuReadDiscreteInputs _ => true
  | .rtuReadHoldingRegisters _ => true
  | .rtuReadInputRegisters _ => true
  | .rtuWriteSingleCoil _ => true
  | .rtuWriteSingleRegister _ => true
  | .rtuWriteMultipleCoils _ => true
  | .rtuWriteMultipleRegisters _ => true
  | .tcpReadCoils _ => true
  | .tcpReadDiscreteInputs _ => true
  | .tcpReadHoldingRegisters _ => true
  | .tcpReadInputRegisters _ => true
  | .tcpWriteSingleCoil _ => true
  | .tcpWriteSingleRegister _ => true
  | .tcpWriteMultipleCoils _ => true
  | .tcpWriteMultipleRegisters _ => true
  | .crcInit => true
  | .crcByte _ => true
  | .crcRead => true
  | .crc16 _ => true
  | .bsOpen _ _ _ => true
  | .bsClose _ => true
  | .bsWrite _ _ => true
  | .bsReadAvailable _ => true
  | .bsReadLine _ => true
  | .bsBytesAvailable _ => true
  | .bsWaitReady _ _ => true
  | .canStart => true
  | .canStop => true
  | .canReadFrame => true
  | .canReadAllFrames => true
  | .canBufferedCount => true
  | .canReceivedCount => true
  | .canDroppedCount => true
  | .slSetHoldingRegister _ _ => true
  | .slGetHoldingRegister _ => true
  | .slSetInputRegister _ _ => true
  | .slGetInputRegister _ => true
  | .rmReadCoils _ _ => true
  | .rmReadDiscreteInputs _ _ => true
  | .rmReadHoldingRegisters _ _ => true
  | .rmReadInputRegisters _ _ => true
  | .rmWriteSingleCoil _ _ => true
  | .rmWriteSingleRegister _ _ => true
  | .rmWriteMultipleCoils _ _ => true
  | .rmWriteMultipleRegisters _ _ => true
  | .tmReadCoils _ _ => true
  | .tmReadDiscreteInputs _ _ => true
  | .tmReadHoldingRegisters _ _ => true
  | .tmReadInputRegisters _ _ => true
  | .tmWriteSingleCoil _ _ => true
  | .tmWriteSingleRegister _ _ => true
  | .tmWriteMultipleCoils _ _ => true
  | .tmWriteMultipleRegisters _ _ => true
  | .tmConnect _ => true
  | .tmDisconnect => true
  | .bsChanError _ _ => true
  | .canThreadStep => true
  | .canNormalDrain => true
  | .slSlaveRx => true
  | .slGapFire => true
  | .rmMasterPoll => true
  | .tmTcpPoll => true
  | .tmTcpPeerClose => true

end Sys2Proof
end

