-- ==== Sys2Proof/Decode.lean ====
section
/-! DEFINITION. Decoding and encoding.

TWO ENCODINGS. (1) The wire: a frame the slave executes is decoded by `slaveDecode` (30_encoding.md R90, R98, R110);
the wire forms themselves are in Machine/Frame.lean. (2) The input record: one step input of the block as bytes. The
spec gives each operation its opcode byte (R110 to R112: a function code or a spec-assigned index) and no packed
operands (R94, R95), so the record is the model's own (log 2): the opcode byte exactly as spec/opcode_table.json
matches it, then a byte that says which of the table's spaces it belongs to, then the operands. Zero bytes may follow. -/
namespace Sys2Proof

/-- Why a record encodes no operation. -/
inductive DecodeError
  /-- No opcode byte or no space byte. -/
  | emptyRecord
  /-- The space byte names no space of the opcode table. -/
  | unassignedSpace
  /-- The opcode byte is assigned to no operation of its space (R111, R112: no index; R110: no code a master emits). -/
  | unassignedOpcode
  /-- The record ends inside an operand. -/
  | truncated
  /-- An operand byte lies outside its operand's type. -/
  | badOperand
  /-- A nonzero byte follows the last operand. -/
  | trailingBytes
deriving DecidableEq, Repr

/-- A reader of one operand: its value and the bytes after it. -/
abbrev Rd (α : Type) : Type := List Byte → Except DecodeError (α × List Byte)

/-- Read nothing. -/
def Rd.pure {α : Type} (a : α) : Rd α := fun bs => .ok (a, bs)

/-- Refuse by name. -/
def Rd.fail {α : Type} (e : DecodeError) : Rd α := fun _ => .error e

/-- Read one operand, then go on with its value. -/
def Rd.bind {α β : Type} (r : Rd α) (f : α → Rd β) : Rd β := fun bs =>
  match r bs with
  | .ok (a, rest) => f a rest
  | .error e => .error e

/-- One operand. -/
def Rd.map1 {α β : Type} (mk : α → β) (ra : Rd α) : Rd β := ra.bind fun a => Rd.pure (mk a)

/-- Two operands, in order. -/
def Rd.map2 {α β γ : Type} (mk : α → β → γ) (ra : Rd α) (rb : Rd β) : Rd γ :=
  ra.bind fun a => Rd.map1 (mk a) rb

/-- Three operands, in order. -/
def Rd.map3 {α β γ δ : Type} (mk : α → β → γ → δ) (ra : Rd α) (rb : Rd β) (rc : Rd γ) : Rd δ :=
  ra.bind fun a => Rd.map2 (mk a) rb rc

/-- Four operands, in order. -/
def Rd.map4 {α β γ δ ε : Type} (mk : α → β → γ → δ → ε) (ra : Rd α) (rb : Rd β) (rc : Rd γ) (rd : Rd δ) : Rd ε :=
  ra.bind fun a => Rd.map3 (mk a) rb rc rd

/-- `n` values of one reader. -/
def Rd.many {α : Type} (r : Rd α) : Nat → Rd (List α)
  | 0 => Rd.pure []
  | n + 1 => Rd.map2 (fun a as => a :: as) r (Rd.many r n)

/-- A byte. -/
def rdByte : Rd Byte
  | [] => .error .truncated
  | b :: bs => .ok (b, bs)
/-- A byte. -/
def encByte (b : Byte) : List Byte := [b]

/-- A u16, high byte first, the order of every 16-bit field but the CRC (20_memory.md R61). -/
def rdWord : Rd Word := Rd.map2 be16 rdByte rdByte
/-- A u16, high byte first. -/
def encWord (v : Word) : List Byte := [hi8 v, lo8 v]

/-- A nat of any size: seven bits a byte, lowest first, bit 7 set on all but the last. -/
def rdNat : Rd Nat
  | [] => .error .truncated
  | b :: bs =>
    if b.toNat < 128 then .ok (b.toNat, bs)
    else
      match rdNat bs with
      | .ok (n, rest) => .ok (b.toNat - 128 + 128 * n, rest)
      | .error e => .error e

/-- The digits of `encNat`; `fuel` at least `n` is enough. -/
def encNatFuel : Nat → Nat → List Byte
  | 0, n => [BitVec.ofNat 8 n]
  | fuel + 1, n =>
    if n < 128 then [BitVec.ofNat 8 n] else BitVec.ofNat 8 (128 + n % 128) :: encNatFuel fuel (n / 128)
/-- A nat of any size. -/
def encNat (n : Nat) : List Byte := encNatFuel n n

/-- A nat of at least 1, held as its predecessor. -/
def rdPos : Rd Nat := Rd.map1 (fun n => n + 1) rdNat
/-- A nat of at least 1. -/
def encPos (n : Nat) : List Byte := encNat (n - 1)

/-- An operand of an enumeration: the byte is its place in the list of values. -/
def rdEnum {α : Type} (values : List α) : Rd α := rdByte.bind fun b =>
  match values[b.toNat]? with
  | some a => Rd.pure a
  | none => Rd.fail .badOperand

/-- A bool: 0 false, 1 true. -/
def rdBool : Rd Bool := rdEnum [false, true]
/-- A bool. -/
def encBool (b : Bool) : List Byte := [if b then 1#8 else 0#8]

/-- A channel instance. -/
def rdChan : Rd Chan := rdEnum [.host, .slave, .master]
/-- A channel instance. -/
def encChan : Chan → List Byte
  | .host => [0#8]
  | .slave => [1#8]
  | .master => [2#8]

/-- A parity operand. -/
def rdParity : Rd Parity := rdEnum [.none, .even, .odd, .illegal]
/-- A parity operand. -/
def encParity : Parity → List Byte
  | .none => [0#8]
  | .even => [1#8]
  | .odd => [2#8]
  | .illegal => [3#8]

/-- The serial configuration record, in the order of R25. -/
def rdSerialCfg : Rd SerialCfg := Rd.map4 SerialCfg.mk rdNat rdNat rdParity rdNat
/-- The serial configuration record. -/
def encSerialCfg (c : SerialCfg) : List Byte :=
  encNat c.baud ++ (encNat c.dataBits ++ (encParity c.parity ++ encNat c.stopBits))

/-- The environment's draw of `open`. -/
def rdOpenDraw : Rd OpenDraw := rdEnum [.ok, .deviceNotFound, .permission, .openFailure]
/-- The environment's draw of `open`. -/
def encOpenDraw : OpenDraw → List Byte
  | .ok => [0#8]
  | .deviceNotFound => [1#8]
  | .permission => [2#8]
  | .openFailure => [3#8]

/-- The kind of a `ChanError`. -/
def rdDeviceError : Rd DeviceError := rdEnum [.readError, .writeError, .resourceGone, .timeout]
/-- The kind of a `ChanError`. -/
def encDeviceError : DeviceError → List Byte
  | .readError => [0#8]
  | .writeError => [1#8]
  | .resourceGone => [2#8]
  | .timeout => [3#8]

/-- A master. -/
def rdLink : Rd Link := rdEnum [.rtu, .tcp]
/-- A master. -/
def encLink : Link → List Byte
  | .rtu => [0#8]
  | .tcp => [1#8]

/-- The code byte of an exception response (60_exceptions.md R340). -/
def ExceptionCode.toByte : ExceptionCode → Byte
  | .illegalFunction => 0x01#8
  | .illegalDataAddress => 0x02#8
  | .illegalDataValue => 0x03#8

/-- An exception the slave raises, by its code byte. -/
def rdExceptionCode : Rd ExceptionCode := rdByte.bind fun b =>
  if b = 0x01#8 then Rd.pure .illegalFunction
  else if b = 0x02#8 then Rd.pure .illegalDataAddress
  else if b = 0x03#8 then Rd.pure .illegalDataValue
  else Rd.fail .badOperand
/-- An exception the slave raises. -/
def encExceptionCode (e : ExceptionCode) : List Byte := [e.toByte]

/-- A sequence: its length, then its elements. -/
def rdSeq {α : Type} (r : Rd α) : Rd (List α) := rdNat.bind fun n => Rd.many r n
/-- A byte sequence. -/
def rdBytes : Rd (List Byte) := rdSeq rdByte
/-- A byte sequence. -/
def encBytes (bs : List Byte) : List Byte := encNat bs.length ++ bs
/-- A sequence of u16. -/
def rdWords : Rd (List Word) := rdSeq rdWord
/-- A sequence of u16. -/
def encWords (ws : List Word) : List Byte := encNat ws.length ++ wordsToBytes ws
/-- A sequence of bools, one byte each. -/
def rdBools : Rd (List Bool) := rdSeq rdBool
/-- A sequence of bools. -/
def encBools (vs : List Bool) : List Byte := encNat vs.length ++ vs.flatMap encBool
/-- A non-empty byte sequence, its length held as its predecessor. -/
def rdBytes1 : Rd (List Byte) := rdPos.bind fun n => Rd.many rdByte n
/-- A non-empty byte sequence. -/
def encBytes1 (bs : List Byte) : List Byte := encPos bs.length ++ bs

/-- The kind of a CAN frame. -/
def rdFrameKind : Rd FrameKind := rdEnum [.data, .remote, .error]
/-- The kind of a CAN frame. -/
def encFrameKind : FrameKind → List Byte
  | .data => [0#8]
  | .remote => [1#8]
  | .error => [2#8]

/-- A CAN frame a device delivers (10_state.md R34); any other record is refused (30_encoding.md R117). -/
def rdCanFrame : Rd CanFrame := (Rd.map4 CanFrame.mk rdNat rdBool rdFrameKind rdBytes).bind fun f =>
  if f.wf then Rd.pure f else Rd.fail .badOperand
/-- A CAN frame. -/
def encCanFrame (f : CanFrame) : List Byte :=
  encNat f.id ++ (encBool f.ext ++ (encFrameKind f.kind ++ encBytes f.data))

/-- The operands of a read request. -/
def rdReadReq : Rd ReadReq := Rd.map2 ReadReq.mk rdWord rdWord
/-- The operands of a read request. -/
def encReadReq (q : ReadReq) : List Byte := encWord q.start ++ encWord q.count
/-- The operands of writeSingleCoil. -/
def rdCoilReq : Rd CoilReq := Rd.map2 CoilReq.mk rdWord rdBool
/-- The operands of writeSingleCoil. -/
def encCoilReq (q : CoilReq) : List Byte := encWord q.addr ++ encBool q.on
/-- The operands of writeSingleRegister. -/
def rdRegReq : Rd RegReq := Rd.map2 RegReq.mk rdWord rdWord
/-- The operands of writeSingleRegister. -/
def encRegReq (q : RegReq) : List Byte := encWord q.addr ++ encWord q.value
/-- The operands of writeMultipleCoils. -/
def rdCoilsReq : Rd CoilsReq := Rd.map2 CoilsReq.mk rdWord rdBools
/-- The operands of writeMultipleCoils. -/
def encCoilsReq (q : CoilsReq) : List Byte := encWord q.start ++ encBools q.values
/-- The operands of writeMultipleRegisters. -/
def rdRegsReq : Rd RegsReq := Rd.map2 RegsReq.mk rdWord rdWords
/-- The operands of writeMultipleRegisters. -/
def encRegsReq (q : RegsReq) : List Byte := encWord q.start ++ encWords q.values

/-- The header fields of a TCP response. -/
def rdTcpHeader : Rd TcpHeader := Rd.map3 TcpHeader.mk rdWord rdWord rdByte
/-- The header fields of a TCP response. -/
def encTcpHeader (h : TcpHeader) : List Byte := encWord h.txn ++ (encWord h.proto ++ encByte h.unit)

/-- A wire opcode of the RTU master: 0 and the request, or 1 and the response. -/
def rdRtuMsg {Req : Type} (r : Rd Req) : Rd (RtuMsg Req) := rdBool.bind fun response =>
  if response then Rd.map2 .response rdByte rdBytes else Rd.map1 .request r
/-- A wire opcode of the RTU master. -/
def encRtuMsg {Req : Type} (e : Req → List Byte) : RtuMsg Req → List Byte
  | .request q => encBool false ++ e q
  | .response unit data => encBool true ++ (encByte unit ++ encBytes data)

/-- A wire opcode of the TCP master: 0 and the request, or 1 and the response. -/
def rdTcpMsg {Req : Type} (r : Rd Req) : Rd (TcpMsg Req) := rdBool.bind fun response =>
  if response then Rd.map2 .response rdTcpHeader rdBytes else Rd.map1 .request r
/-- A wire opcode of the TCP master. -/
def encTcpMsg {Req : Type} (e : Req → List Byte) : TcpMsg Req → List Byte
  | .request q => encBool false ++ e q
  | .response h data => encBool true ++ (encTcpHeader h ++ encBytes data)

/-- The space bytes: host operations and events (their indexes do not meet, R111, R112), and the table's five wire
spaces, where one function code stands for several rows. -/
def spaceOperation : Byte := 0x00#8
/-- Wire, executed by the RTU slave. -/
def spaceSlaveExecutes : Byte := 0x01#8
/-- Wire, sent by the RTU slave. -/
def spaceSlaveSends : Byte := 0x02#8
/-- Wire, encoded and decoded by the RTU master. -/
def spaceRtuMaster : Byte := 0x03#8
/-- Wire, encoded and decoded by the TCP master. -/
def spaceTcpMaster : Byte := 0x04#8
/-- Wire, decoded by both masters. -/
def spaceMastersDecode : Byte := 0x05#8

/-- The function code of a supported or unsupported request, as an operation of the slave (44_rtu_slave.md R260). -/
def slaveInstr (p : RtuPdu) : Instr :=
  match p.fc.toNat with
  | 0x03 => .slvReadHoldingRegisters p.unit p.data
  | 0x04 => .slvReadInputRegisters p.unit p.data
  | 0x06 => .slvWriteSingleRegister p.unit p.data
  | 0x10 => .slvWriteMultipleRegisters p.unit p.data
  | _ => .slvUnsupportedFunction p.unit p.fc p.data

/-- THE WIRE DECODER of the slave: a completed frame as the operation it encodes; `none` for a frame that is too short
or fails its CRC, of which no byte may be interpreted (43_frame_parser.md R230, R235, R237). Every function code decodes
(30_encoding.md R113). -/
def slaveDecode (frame : List Byte) : Option Instr :=
  match rtuOpen frame with
  | .ok p => some (slaveInstr p)
  | .error _ => none

/-- The frame that encodes an operation of the slave (format RTU, R90). -/
def slaveEncode : Instr → Option (List Byte)
  | .slvReadHoldingRegisters unit data => some (rtuFrame unit 0x03#8 data)
  | .slvReadInputRegisters unit data => some (rtuFrame unit 0x04#8 data)
  | .slvWriteSingleRegister unit data => some (rtuFrame unit 0x06#8 data)
  | .slvWriteMultipleRegisters unit data => some (rtuFrame unit 0x10#8 data)
  | .slvUnsupportedFunction unit fc data => some (rtuFrame unit fc data)
  | _ => none

/-- Host operations by their index (30_encoding.md R111). -/
def decodeHostOperation (op : Nat) : Rd Instr :=
  match op with
  | 0x00 => Rd.pure .crcInit
  | 0x01 => Rd.map1 .crcByte rdByte
  | 0x02 => Rd.pure .crcRead
  | 0x03 => Rd.map1 .crc16 rdBytes
  | 0x10 => Rd.map3 .bsOpen rdChan rdSerialCfg rdOpenDraw
  | 0x11 => Rd.map1 .bsClose rdChan
  | 0x12 => Rd.map2 .bsWrite rdChan rdBytes
  | 0x13 => Rd.map1 .bsReadAvailable rdChan
  | 0x14 => Rd.map1 .bsReadLine rdChan
  | 0x15 => Rd.map1 .bsBytesAvailable rdChan
  | 0x16 => Rd.map2 .bsWaitReady rdChan rdNat
  | 0x20 => Rd.pure .canStart
  | 0x21 => Rd.pure .canStop
  | 0x22 => Rd.pure .canReadFrame
  | 0x23 => Rd.pure .canReadAllFrames
  | 0x24 => Rd.pure .canBufferedCount
  | 0x25 => Rd.pure .canReceivedCount
  | 0x26 => Rd.pure .canDroppedCount
  | 0x30 => Rd.map2 .slSetHoldingRegister rdNat rdWord
  | 0x31 => Rd.map1 .slGetHoldingRegister rdNat
  | 0x32 => Rd.map2 .slSetInputRegister rdNat rdWord
  | 0x33 => Rd.map1 .slGetInputRegister rdNat
  | 0x40 => Rd.map2 .rmReadCoils rdNat rdNat
  | 0x41 => Rd.map2 .rmReadDiscreteInputs rdNat rdNat
  | 0x42 => Rd.map2 .rmReadHoldingRegisters rdNat rdNat
  | 0x43 => Rd.map2 .rmReadInputRegisters rdNat rdNat
  | 0x44 => Rd.map2 .rmWriteSingleCoil rdNat rdBool
  | 0x45 => Rd.map2 .rmWriteSingleRegister rdNat rdWord
  | 0x46 => Rd.map2 .rmWriteMultipleCoils rdNat rdBools
  | 0x47 => Rd.map2 .rmWriteMultipleRegisters rdNat rdWords
  | 0x50 => Rd.map2 .tmReadCoils rdNat rdNat
  | 0x51 => Rd.map2 .tmReadDiscreteInputs rdNat rdNat
  | 0x52 => Rd.map2 .tmReadHoldingRegisters rdNat rdNat
  | 0x53 => Rd.map2 .tmReadInputRegisters rdNat rdNat
  | 0x54 => Rd.map2 .tmWriteSingleCoil rdNat rdBool
  | 0x55 => Rd.map2 .tmWriteSingleRegister rdNat rdWord
  | 0x56 => Rd.map2 .tmWriteMultipleCoils rdNat rdBools
  | 0x57 => Rd.map2 .tmWriteMultipleRegisters rdNat rdWords
  | 0x58 => Rd.map1 .tmConnect rdBool
  | 0x59 => Rd.pure .tmDisconnect
  | _ => Rd.fail .unassignedOpcode

/-- Events and internal agent steps by their index (30_encoding.md R112). -/
def decodeEvent (op : Nat) : Rd Instr :=
  match op with
  | 0x80 => Rd.map1 .tick rdPos
  | 0x81 => Rd.map2 .bsRxBytes rdChan rdBytes1
  | 0x82 => Rd.map2 .bsTxDrain rdChan rdPos
  | 0x83 => Rd.map2 .bsChanError rdChan rdDeviceError
  | 0x84 => Rd.map1 .canArrive rdCanFrame
  | 0x85 => Rd.pure .canThreadStep
  | 0x86 => Rd.pure .canNormalDrain
  | 0x87 => Rd.pure .slSlaveRx
  | 0x88 => Rd.pure .slGapFire
  | 0x89 => Rd.pure .rmMasterPoll
  | 0x8A => Rd.map1 .tmTcpRx rdBytes1
  | 0x8B => Rd.pure .tmTcpPoll
  | 0x8C => Rd.pure .tmTcpPeerClose
  | _ => Rd.fail .unassignedOpcode

/-- The eight function codes the RTU master encodes and decodes (30_encoding.md R110). -/
def decodeRtuWire (op : Nat) : Rd Instr :=
  match op with
  | 0x01 => Rd.map1 .rtuReadCoils (rdRtuMsg rdReadReq)
  | 0x02 => Rd.map1 .rtuReadDiscreteInputs (rdRtuMsg rdReadReq)
  | 0x03 => Rd.map1 .rtuReadHoldingRegisters (rdRtuMsg rdReadReq)
  | 0x04 => Rd.map1 .rtuReadInputRegisters (rdRtuMsg rdReadReq)
  | 0x05 => Rd.map1 .rtuWriteSingleCoil (rdRtuMsg rdCoilReq)
  | 0x06 => Rd.map1 .rtuWriteSingleRegister (rdRtuMsg rdRegReq)
  | 0x0F => Rd.map1 .rtuWriteMultipleCoils (rdRtuMsg rdCoilsReq)
  | 0x10 => Rd.map1 .rtuWriteMultipleRegisters (rdRtuMsg rdRegsReq)
  | _ => Rd.fail .unassignedOpcode

/-- The eight function codes the TCP master encodes and decodes (30_encoding.md R110). -/
def decodeTcpWire (op : Nat) : Rd Instr :=
  match op with
  | 0x01 => Rd.map1 .tcpReadCoils (rdTcpMsg rdReadReq)
  | 0x02 => Rd.map1 .tcpReadDiscreteInputs (rdTcpMsg rdReadReq)
  | 0x03 => Rd.map1 .tcpReadHoldingRegisters (rdTcpMsg rdReadReq)
  | 0x04 => Rd.map1 .tcpReadInputRegisters (rdTcpMsg rdReadReq)
  | 0x05 => Rd.map1 .tcpWriteSingleCoil (rdTcpMsg rdCoilReq)
  | 0x06 => Rd.map1 .tcpWriteSingleRegister (rdTcpMsg rdRegReq)
  | 0x0F => Rd.map1 .tcpWriteMultipleCoils (rdTcpMsg rdCoilsReq)
  | 0x10 => Rd.map1 .tcpWriteMultipleRegisters (rdTcpMsg rdRegsReq)
  | _ => Rd.fail .unassignedOpcode

/-- The operands after an opcode byte and a space byte. An exception response carries its function code with bit 7 set
(R92); the slave's own row also needs the request's bit 7 (R114), so its function code is written out. -/
def decodeOperands (op space : Byte) : Rd Instr :=
  match space.toNat with
  | 0x00 => if op.toNat < 0x80 then decodeHostOperation op.toNat else decodeEvent op.toNat
  | 0x01 => Rd.map2 (fun unit data => slaveInstr ⟨unit, op, data⟩) rdByte rdBytes
  | 0x02 => rdByte.bind fun fc =>
      if op = fc ||| 0x80#8 then Rd.map1 (.exceptionResponseBuild fc) rdExceptionCode else Rd.fail .badOperand
  | 0x03 => decodeRtuWire op.toNat
  | 0x04 => decodeTcpWire op.toNat
  | 0x05 =>
      if exceptionBit op then Rd.map2 (fun link code => .exceptionResponseDecode link (op &&& 0x7F#8) code) rdLink rdByte
      else Rd.fail .unassignedOpcode
  | _ => Rd.fail .unassignedSpace

/-- THE DECODER of an input record: total on any bytes, and what it refuses it refuses by name. -/
def decode : List Byte → Except DecodeError Instr
  | op :: space :: bs =>
    match decodeOperands op space bs with
    | .ok (i, rest) => if rest.all (· == 0#8) then .ok i else .error .trailingBytes
    | .error e => .error e
  | _ => .error .emptyRecord

/-- The opcode byte of an operation: the `match` of its row in spec/opcode_table.json (R110 to R112). -/
def Instr.opcode : Instr → Byte
  | .slvReadHoldingRegisters _ _ => 0x03#8
  | .slvReadInputRegisters _ _ => 0x04#8
  | .slvWriteSingleRegister _ _ => 0x06#8
  | .slvWriteMultipleRegisters _ _ => 0x10#8
  | .slvUnsupportedFunction _ fc _ => fc
  | .exceptionResponseBuild fc _ => fc ||| 0x80#8
  | .rtuReadCoils _ => 0x01#8
  | .rtuReadDiscreteInputs _ => 0x02#8
  | .rtuReadHoldingRegisters _ => 0x03#8
  | .rtuReadInputRegisters _ => 0x04#8
  | .rtuWriteSingleCoil _ => 0x05#8
  | .rtuWriteSingleRegister _ => 0x06#8
  | .rtuWriteMultipleCoils _ => 0x0F#8
  | .rtuWriteMultipleRegisters _ => 0x10#8
  | .tcpReadCoils _ => 0x01#8
  | .tcpReadDiscreteInputs _ => 0x02#8
  | .tcpReadHoldingRegisters _ => 0x03#8
  | .tcpReadInputRegisters _ => 0x04#8
  | .tcpWriteSingleCoil _ => 0x05#8
  | .tcpWriteSingleRegister _ => 0x06#8
  | .tcpWriteMultipleCoils _ => 0x0F#8
  | .tcpWriteMultipleRegisters _ => 0x10#8
  | .exceptionResponseDecode _ fc _ => fc ||| 0x80#8
  | .crcInit => 0x00#8
  | .crcByte _ => 0x01#8
  | .crcRead => 0x02#8
  | .crc16 _ => 0x03#8
  | .bsOpen _ _ _ => 0x10#8
  | .bsClose _ => 0x11#8
  | .bsWrite _ _ => 0x12#8
  | .bsReadAvailable _ => 0x13#8
  | .bsReadLine _ => 0x14#8
  | .bsBytesAvailable _ => 0x15#8
  | .bsWaitReady _ _ => 0x16#8
  | .canStart => 0x20#8
  | .canStop => 0x21#8
  | .canReadFrame => 0x22#8
  | .canReadAllFrames => 0x23#8
  | .canBufferedCount => 0x24#8
  | .canReceivedCount => 0x25#8
  | .canDroppedCount => 0x26#8
  | .slSetHoldingRegister _ _ => 0x30#8
  | .slGetHoldingRegister _ => 0x31#8
  | .slSetInputRegister _ _ => 0x32#8
  | .slGetInputRegister _ => 0x33#8
  | .rmReadCoils _ _ => 0x40#8
  | .rmReadDiscreteInputs _ _ => 0x41#8
  | .rmReadHoldingRegisters _ _ => 0x42#8
  | .rmReadInputRegisters _ _ => 0x43#8
  | .rmWriteSingleCoil _ _ => 0x44#8
  | .rmWriteSingleRegister _ _ => 0x45#8
  | .rmWriteMultipleCoils _ _ => 0x46#8
  | .rmWriteMultipleRegisters _ _ => 0x47#8
  | .tmReadCoils _ _ => 0x50#8
  | .tmReadDiscreteInputs _ _ => 0x51#8
  | .tmReadHoldingRegisters _ _ => 0x52#8
  | .tmReadInputRegisters _ _ => 0x53#8
  | .tmWriteSingleCoil _ _ => 0x54#8
  | .tmWriteSingleRegister _ _ => 0x55#8
  | .tmWriteMultipleCoils _ _ => 0x56#8
  | .tmWriteMultipleRegisters _ _ => 0x57#8
  | .tmConnect _ => 0x58#8
  | .tmDisconnect => 0x59#8
  | .tick _ => 0x80#8
  | .bsRxBytes _ _ => 0x81#8
  | .bsTxDrain _ _ => 0x82#8
  | .bsChanError _ _ => 0x83#8
  | .canArrive _ => 0x84#8
  | .canThreadStep => 0x85#8
  | .canNormalDrain => 0x86#8
  | .slSlaveRx => 0x87#8
  | .slGapFire => 0x88#8
  | .rmMasterPoll => 0x89#8
  | .tmTcpRx _ => 0x8A#8
  | .tmTcpPoll => 0x8B#8
  | .tmTcpPeerClose => 0x8C#8

/-- The space of an operation's row. -/
def Instr.space : Instr → Byte
  | .slvReadHoldingRegisters _ _ => spaceSlaveExecutes
  | .slvReadInputRegisters _ _ => spaceSlaveExecutes
  | .slvWriteSingleRegister _ _ => spaceSlaveExecutes
  | .slvWriteMultipleRegisters _ _ => spaceSlaveExecutes
  | .slvUnsupportedFunction _ _ _ => spaceSlaveExecutes
  | .exceptionResponseBuild _ _ => spaceSlaveSends
  | .rtuReadCoils _ => spaceRtuMaster
  | .rtuReadDiscreteInputs _ => spaceRtuMaster
  | .rtuReadHoldingRegisters _ => spaceRtuMaster
  | .rtuReadInputRegisters _ => spaceRtuMaster
  | .rtuWriteSingleCoil _ => spaceRtuMaster
  | .rtuWriteSingleRegister _ => spaceRtuMaster
  | .rtuWriteMultipleCoils _ => spaceRtuMaster
  | .rtuWriteMultipleRegisters _ => spaceRtuMaster
  | .tcpReadCoils _ => spaceTcpMaster
  | .tcpReadDiscreteInputs _ => spaceTcpMaster
  | .tcpReadHoldingRegisters _ => spaceTcpMaster
  | .tcpReadInputRegisters _ => spaceTcpMaster
  | .tcpWriteSingleCoil _ => spaceTcpMaster
  | .tcpWriteSingleRegister _ => spaceTcpMaster
  | .tcpWriteMultipleCoils _ => spaceTcpMaster
  | .tcpWriteMultipleRegisters _ => spaceTcpMaster
  | .exceptionResponseDecode _ _ _ => spaceMastersDecode
  | .crcInit => spaceOperation
  | .crcByte _ => spaceOperation
  | .crcRead => spaceOperation
  | .crc16 _ => spaceOperation
  | .bsOpen _ _ _ => spaceOperation
  | .bsClose _ => spaceOperation
  | .bsWrite _ _ => spaceOperation
  | .bsReadAvailable _ => spaceOperation
  | .bsReadLine _ => spaceOperation
  | .bsBytesAvailable _ => spaceOperation
  | .bsWaitReady _ _ => spaceOperation
  | .canStart => spaceOperation
  | .canStop => spaceOperation
  | .canReadFrame => spaceOperation
  | .canReadAllFrames => spaceOperation
  | .canBufferedCount => spaceOperation
  | .canReceivedCount => spaceOperation
  | .canDroppedCount => spaceOperation
  | .slSetHoldingRegister _ _ => spaceOperation
  | .slGetHoldingRegister _ => spaceOperation
  | .slSetInputRegister _ _ => spaceOperation
  | .slGetInputRegister _ => spaceOperation
  | .rmReadCoils _ _ => spaceOperation
  | .rmReadDiscreteInputs _ _ => spaceOperation
  | .rmReadHoldingRegisters _ _ => spaceOperation
  | .rmReadInputRegisters _ _ => spaceOperation
  | .rmWriteSingleCoil _ _ => spaceOperation
  | .rmWriteSingleRegister _ _ => spaceOperation
  | .rmWriteMultipleCoils _ _ => spaceOperation
  | .rmWriteMultipleRegisters _ _ => spaceOperation
  | .tmReadCoils _ _ => spaceOperation
  | .tmReadDiscreteInputs _ _ => spaceOperation
  | .tmReadHoldingRegisters _ _ => spaceOperation
  | .tmReadInputRegisters _ _ => spaceOperation
  | .tmWriteSingleCoil _ _ => spaceOperation
  | .tmWriteSingleRegister _ _ => spaceOperation
  | .tmWriteMultipleCoils _ _ => spaceOperation
  | .tmWriteMultipleRegisters _ _ => spaceOperation
  | .tmConnect _ => spaceOperation
  | .tmDisconnect => spaceOperation
  | .tick _ => spaceOperation
  | .bsRxBytes _ _ => spaceOperation
  | .bsTxDrain _ _ => spaceOperation
  | .bsChanError _ _ => spaceOperation
  | .canArrive _ => spaceOperation
  | .canThreadStep => spaceOperation
  | .canNormalDrain => spaceOperation
  | .slSlaveRx => spaceOperation
  | .slGapFire => spaceOperation
  | .rmMasterPoll => spaceOperation
  | .tmTcpRx _ => spaceOperation
  | .tmTcpPoll => spaceOperation
  | .tmTcpPeerClose => spaceOperation

/-- The operands of an operation. -/
def encodeOperands : Instr → List Byte
  | .slvReadHoldingRegisters unit data => encByte unit ++ encBytes data
  | .slvReadInputRegisters unit data => encByte unit ++ encBytes data
  | .slvWriteSingleRegister unit data => encByte unit ++ encBytes data
  | .slvWriteMultipleRegisters unit data => encByte unit ++ encBytes data
  | .slvUnsupportedFunction unit _ data => encByte unit ++ encBytes data
  | .exceptionResponseBuild fc code => encByte fc ++ encExceptionCode code
  | .rtuReadCoils m => encRtuMsg encReadReq m
  | .rtuReadDiscreteInputs m => encRtuMsg encReadReq m
  | .rtuReadHoldingRegisters m => encRtuMsg encReadReq m
  | .rtuReadInputRegisters m => encRtuMsg encReadReq m
  | .rtuWriteSingleCoil m => encRtuMsg encCoilReq m
  | .rtuWriteSingleRegister m => encRtuMsg encRegReq m
  | .rtuWriteMultipleCoils m => encRtuMsg encCoilsReq m
  | .rtuWriteMultipleRegisters m => encRtuMsg encRegsReq m
  | .tcpReadCoils m => encTcpMsg encReadReq m
  | .tcpReadDiscreteInputs m => encTcpMsg encReadReq m
  | .tcpReadHoldingRegisters m => encTcpMsg encReadReq m
  | .tcpReadInputRegisters m => encTcpMsg encReadReq m
  | .tcpWriteSingleCoil m => encTcpMsg encCoilReq m
  | .tcpWriteSingleRegister m => encTcpMsg encRegReq m
  | .tcpWriteMultipleCoils m => encTcpMsg encCoilsReq m
  | .tcpWriteMultipleRegisters m => encTcpMsg encRegsReq m
  | .exceptionResponseDecode link _ code => encLink link ++ encByte code
  | .crcInit => []
  | .crcByte a => encByte a
  | .crcRead => []
  | .crc16 a => encBytes a
  | .bsOpen a b c => encChan a ++ (encSerialCfg b ++ encOpenDraw c)
  | .bsClose a => encChan a
  | .bsWrite a b => encChan a ++ encBytes b
  | .bsReadAvailable a => encChan a
  | .bsReadLine a => encChan a
  | .bsBytesAvailable a => encChan a
  | .bsWaitReady a b => encChan a ++ encNat b
  | .canStart => []
  | .canStop => []
  | .canReadFrame => []
  | .canReadAllFrames => []
  | .canBufferedCount => []
  | .canReceivedCount => []
  | .canDroppedCount => []
  | .slSetHoldingRegister a b => encNat a ++ encWord b
  | .slGetHoldingRegister a => encNat a
  | .slSetInputRegister a b => encNat a ++ encWord b
  | .slGetInputRegister a => encNat a
  | .rmReadCoils a b => encNat a ++ encNat b
  | .rmReadDiscreteInputs a b => encNat a ++ encNat b
  | .rmReadHoldingRegisters a b => encNat a ++ encNat b
  | .rmReadInputRegisters a b => encNat a ++ encNat b
  | .rmWriteSingleCoil a b => encNat a ++ encBool b
  | .rmWriteSingleRegister a b => encNat a ++ encWord b
  | .rmWriteMultipleCoils a b => encNat a ++ encBools b
  | .rmWriteMultipleRegisters a b => encNat a ++ encWords b
  | .tmReadCoils a b => encNat a ++ encNat b
  | .tmReadDiscreteInputs a b => encNat a ++ encNat b
  | .tmReadHoldingRegisters a b => encNat a ++ encNat b
  | .tmReadInputRegisters a b => encNat a ++ encNat b
  | .tmWriteSingleCoil a b => encNat a ++ encBool b
  | .tmWriteSingleRegister a b => encNat a ++ encWord b
  | .tmWriteMultipleCoils a b => encNat a ++ encBools b
  | .tmWriteMultipleRegisters a b => encNat a ++ encWords b
  | .tmConnect a => encBool a
  | .tmDisconnect => []
  | .tick a => encPos a
  | .bsRxBytes a b => encChan a ++ encBytes1 b
  | .bsTxDrain a b => encChan a ++ encPos b
  | .bsChanError a b => encChan a ++ encDeviceError b
  | .canArrive a => encCanFrame a
  | .canThreadStep => []
  | .canNormalDrain => []
  | .slSlaveRx => []
  | .slGapFire => []
  | .rmMasterPoll => []
  | .tmTcpRx a => encBytes1 a
  | .tmTcpPoll => []
  | .tmTcpPeerClose => []

/-- THE ENCODER: the input record of an operation. -/
def encode (i : Instr) : List Byte := i.opcode :: i.space :: encodeOperands i

/-- How many zero bytes follow the bits a table word gives: at least as many as the longest operand list that zeros
encode. -/
def tablePadding : Nat := 16

/-- A table word as bytes, bit 0 the least significant bit of the first byte, followed by zero bytes. -/
def tableWordBytes (nbits w : Nat) : List Byte :=
  (List.range ((nbits + 7) / 8)).map (fun k => BitVec.ofNat 8 (w >>> (8 * k))) ++ List.replicate tablePadding 0#8

/-- The operation the decoder reads from a table word, or none where it refuses. -/
def decodeTableWord (nbits w : Nat) : Option Instr :=
  match decode (tableWordBytes nbits w) with
  | .ok i => some i
  | .error _ => none

end Sys2Proof
end

