-- ==== Sys2Proof/Machine/State.lean ====
section
/-! DEFINITION. The state of the block as plain data (10_state.md R20 to R55): the product of its unit instances, the
clock, the notification trace, and the model's own fields (the inputs to come, the results returned, the suspended host
calls, the parameters of the run). The unit kinds stand once each, the slave and the RTU master owning a Byte-Stream
Channel of their own (R20, the reference configuration). -/
namespace Sys2Proof.Machine

/-- `BS.STATE` (R24). -/
inductive ChanState
  | closed | opened | errored
deriving DecidableEq, Repr

/-- One Byte-Stream Channel instance (R24 to R28). -/
structure Channel where
  /-- `BS.STATE`. -/
  state : ChanState
  /-- `BS.CFG`: written by a successful `open` only. -/
  cfg : SerialCfg
  /-- `BS.RB`, the ReadBuffer, oldest byte first. -/
  rb : List Byte
  /-- `BS.WQ`, the WriteQueue, oldest byte first. -/
  wq : List Byte
  /-- `BS.TX`, the bytes handed to the line since reset. -/
  tx : List Byte
deriving DecidableEq, Repr

/-- `CAN.THREAD` (R33). -/
inductive ThreadState
  | stopped | active | sleeping
deriving DecidableEq, Repr

/-- The CAN Channel with its receive path (R29 to R33, R51). -/
structure Can where
  /-- `CAN.CFG.bitrate`: stored only. -/
  bitrate : Nat
  /-- `CAN.CFG.qcap` = `CAN_QCAP`. -/
  qcap : Nat
  /-- `CAN.CFG.vcap` = `CAN_VCAP`. -/
  vcap : Nat
  /-- `CAN.CFG.prio`: an opaque value, stored only (42_can.md R215). -/
  prio : Nat
  /-- `CAN.VBUF`, the normal-path buffer, oldest frame first. -/
  vbuf : List CanFrame
  /-- `CAN.Q`, the BoundedFrameQueue, oldest frame first. -/
  q : List CanFrame
  /-- `CAN.DEVQ`, the frames the device holds, in arrival order. -/
  devq : List CanFrame
  /-- `CAN.RECEIVED`. -/
  received : Nat
  /-- `CAN.DROPPED`. -/
  dropped : Nat
  /-- `CAN.RUNNING`, the running-flag. -/
  running : Bool
  /-- `CAN.THREAD`. -/
  thread : ThreadState
  /-- `CAN.WAKE`, a value of `NOW`, read only while the thread sleeps. -/
  wake : Nat
deriving DecidableEq, Repr

/-- The RTU slave (R35 to R37, R40, R41). -/
structure Slave where
  /-- `SL.ADDR`, the configured unit address. -/
  addr : Byte
  /-- `SL.GAP_MS`. -/
  gapMs : Nat
  /-- `SL.BS`, the slave's channel. -/
  bs : Channel
  /-- `SL.ASM`, the frame-assembly buffer. -/
  asm : List Byte
  /-- `SL.GAP_ARMED`. -/
  gapArmed : Bool
  /-- `SL.GAP_DEADLINE`, a value of `NOW`, read only while armed. -/
  gapDeadline : Nat
  /-- `HR`, the holding bank: register `i` at place `i`; its length is BANK_LEN. -/
  hr : List Word
  /-- `IR`, the input bank. -/
  ir : List Word
deriving DecidableEq, Repr

/-- `RM.STATE` and `TM.STATE` (R43, R44). -/
inductive MasterState
  | idle | awaitingResponse
deriving DecidableEq, Repr

/-- The eight function codes a master emits (30_encoding.md R110): the `fc` of a TransactionContext. -/
inductive FunctionCode
  | readCoils | readDiscreteInputs | readHoldingRegisters | readInputRegisters
  | writeSingleCoil | writeSingleRegister | writeMultipleCoils | writeMultipleRegisters
deriving DecidableEq, Repr

/-- The `req` of a TransactionContext (R45): the two 16-bit fields every request begins with, `start` and `count` or
`addr` and `value` (30_encoding.md R102 to R109). -/
structure ReqParams where
  first : Word
  second : Word
deriving DecidableEq, Repr

/-- A TransactionContext (R45). -/
structure TransactionContext where
  /-- The expected unit address or unit-id. -/
  addr : Byte
  /-- The expected transaction-id; 0 and unused for RTU. -/
  txn : Word
  /-- The function code of the request. -/
  fc : FunctionCode
  /-- The parameters of the request that the decoder of the response needs. -/
  req : ReqParams
  /-- The value of `NOW` when the request was sent. -/
  issued : Nat
  /-- `issued` plus the master's timeout. -/
  deadline : Nat
  /-- The accumulating response buffer. -/
  resp : List Byte
  /-- The model's own: the channel or the connection the request was sent on has failed since, so that nothing but its
  deadline ends it (41_bytestream.md R169; 45_masters.md R305, R326, R328; log 18, log 19). -/
  lost : Bool
deriving DecidableEq, Repr

/-- The RTU master (R43). -/
structure RtuMaster where
  /-- `RM.UNIT`, the target unit address. -/
  unit : Byte
  /-- `RM.TIMEOUT_MS`. -/
  timeoutMs : Nat
  /-- `RM.BS`, the master's channel. -/
  bs : Channel
  /-- `RM.STATE`. -/
  state : MasterState
  /-- `RM.CTX`: `none` or the one live TransactionContext. -/
  ctx : Option TransactionContext
deriving DecidableEq, Repr

/-- The TCP master (R44). -/
structure TcpMaster where
  /-- `TM.UNIT`, the unit-id. -/
  unit : Byte
  /-- `TM.TIMEOUT_MS`. -/
  timeoutMs : Nat
  /-- `TM.STATE`. -/
  state : MasterState
  /-- `TM.CONN`, whether the stream socket is connected. -/
  conn : Bool
  /-- `TM.TXN`, the transaction-id counter. -/
  txn : Word
  /-- `TM.CTX`. -/
  ctx : Option TransactionContext
  /-- `TM.RXS`, bytes received and not yet taken. -/
  rxs : List Byte
  /-- `TM.TXS`, all bytes sent to the peer. -/
  txs : List Byte
deriving DecidableEq, Repr

/-- The instance a notification or a result comes from (60_exceptions.md R347). -/
inductive Source
  | crc | chan (c : Chan) | can | slave | rtuMaster | tcpMaster
deriving DecidableEq, Repr

/-- What an `error` notification carries (R347): one of the seven channel error kinds (30_encoding.md R122),
`ConfigurationError` or `ConnectionError`. -/
inductive ErrorKind
  | deviceNotFound | permission | openFailure
  | readError | writeError | resourceGone | timeout
  | configurationError | connectionError
deriving DecidableEq, Repr

/-- The notification records (R347). -/
inductive Notice
  | connected
  | disconnected
  | error (kind : ErrorKind)
  | dataReceived (n : Nat)
  | readBufferWarning (n : Nat)
  | frameReceived (f : CanFrame)
  | bufferOverflow (dropped : Nat)
  | readRequest (fc : Byte) (start count : Nat)
  | writeRequest (addr : Nat) (value : Word)
  | modbusException (fc code : Byte)
deriving DecidableEq, Repr

/-- One element of `OUT` (R54): the record and the instance that raised it. -/
structure Notification where
  source : Source
  notice : Notice
deriving DecidableEq, Repr

/-- The value a host operation returns (30_encoding.md R111). -/
inductive Result
  | void
  | bool (b : Bool)
  | u16 (v : Word)
  | count (n : Nat)
  | bytes (bs : List Byte)
  | frameOrNone (f : Option CanFrame)
  | frames (fs : List CanFrame)
  | valueOrNone (v : Option Word)
  | bools (vs : List Bool)
  | words (vs : List Word)
deriving DecidableEq, Repr

/-- Which call a result belongs to: a host operation by its index (R111), or a configuration write, which has none
(70_reset_and_hazards.md R392). -/
inductive Call
  | operation (index : Byte)
  | configure
deriving DecidableEq, Repr

/-- One element of the result trace, the model's own (log 9). -/
structure Return where
  source : Source
  call : Call
  result : Result
deriving DecidableEq, Repr

/-- A suspended `waitReady` call (41_bytestream.md R167): its channel and `t0 + timeout`. -/
structure Wait where
  chan : Chan
  deadline : Nat
deriving DecidableEq, Repr

/-- A suspended `stop` call (42_can.md R207): its deadline `t0 + JOIN_TIMEOUT_MS`, and whether the thread it waits for had
ended when `start` created the thread that runs now (log 10). -/
structure StopCall where
  deadline : Nat
  joined : Bool
deriving DecidableEq, Repr

/-- A configuration write (70_reset_and_hazards.md R391, R392): the fields the spec lets be written while their unit is
inactive, except the serial fields, which only `open` writes. -/
inductive ConfigWrite
  | canBitrate (v : Nat)
  | canQcap (v : Nat)
  | canVcap (v : Nat)
  | canPrio (v : Nat)
  | slAddr (v : Nat)
  | slGapMs (v : Nat)
  | rmUnit (v : Nat)
  | rmTimeoutMs (v : Nat)
  | tmUnit (v : Nat)
  | tmTimeoutMs (v : Nat)
deriving DecidableEq, Repr

/-- One input of the step relation (R56, 60_exceptions.md R373): which step comes next. -/
inductive Input
  /-- An encoded operation. -/
  | operation (bytes : List Byte)
  /-- A configuration write. -/
  | configure (w : ConfigWrite)
  /-- The last step of the `k`th suspended `waitReady` call, oldest first (41_bytestream.md R167; log 10). -/
  | waitReturns (k : Nat)
  /-- The last step of the `k`th suspended `stop` call, oldest first (42_can.md R207; log 10). -/
  | stopReturns (k : Nat)
deriving DecidableEq, Repr

/-- The whole state. -/
structure State where
  /-- `CRC.ACC` (R23). -/
  crcAcc : Word
  /-- `BS`, the host's own channel (R24 to R28). -/
  bs : Channel
  /-- `CAN` (R29 to R33, R51). -/
  can : Can
  /-- `SL` (R35 to R37, R40, R41). -/
  sl : Slave
  /-- `RM` (R43). -/
  rm : RtuMaster
  /-- `TM` (R44). -/
  tm : TcpMaster
  /-- `NOW` (R55). -/
  now : Nat
  /-- `OUT` (R54). -/
  out : List Notification
  /-- The model's own: the parameters of the run (log 8). -/
  params : Params
  /-- The model's own: the results host operations have returned, in order (log 9). -/
  returns : List Return
  /-- The model's own: the suspended `waitReady` calls, oldest first (log 10). -/
  waits : List Wait
  /-- The model's own: the suspended `stop` calls, oldest first (log 10). -/
  stops : List StopCall
  /-- The model's own: the inputs of the steps to come, oldest first (log 1). -/
  inbox : List Input
deriving DecidableEq, Repr

/-- The machine never stops with a fault: "A model therefore needs no fault or stuck state for any rule of this spec"
(60_exceptions.md R346). No constructor, so nobody raises one: safe. -/
inductive Fault
deriving DecidableEq, Repr

/-- Why a step has no meaning. -/
inductive Refusal
  /-- Raised by an arm of `exec` whose instruction has no meaning yet. No arm does so now. Safe: the run ends. -/
  | notModelled (mnemonic : String)
  /-- Raised by `step` when the record at the head of the inbox encodes no operation: an index that 30_encoding.md R111
  and R112 do not assign, or an operand outside its type. Safe: such a record is no input of the block. -/
  | notAnOperation (why : DecodeError)
deriving DecidableEq, Repr

/-- `BS.CFG` before the first successful `open`. DESIGN CHOICE (log 5): the spec gives no value and no rule reads it. -/
def serialCfgUnwritten : SerialCfg where
  baud := 0
  dataBits := 0
  parity := .none
  stopBits := 0

/-- A channel at reset (70_reset_and_hazards.md R381). -/
def Channel.reset : Channel where
  state := .closed
  cfg := serialCfgUnwritten
  rb := []
  wq := []
  tx := []

/-- The CAN Channel at reset (R381); `bitrate` and `prio` are a DESIGN CHOICE (log 6). -/
def Can.reset : Can where
  bitrate := 0
  qcap := Config.canQcap
  vcap := Config.canVcap
  prio := 0
  vbuf := []
  q := []
  devq := []
  received := 0
  dropped := 0
  running := false
  thread := .stopped
  wake := 0

/-- The slave at reset (R381); `addr` is a DESIGN CHOICE (log 4). -/
def Slave.reset : Slave where
  addr := Config.unitReset
  gapMs := Config.frameGapMs
  bs := Channel.reset
  asm := []
  gapArmed := false
  gapDeadline := 0
  hr := List.replicate Config.bankLen Config.bankReset
  ir := List.replicate Config.bankLen Config.bankReset

/-- The RTU master at reset (R381); `unit` is a DESIGN CHOICE (log 4). -/
def RtuMaster.reset : RtuMaster where
  unit := Config.unitReset
  timeoutMs := Config.rtuTimeoutMs
  bs := Channel.reset
  state := .idle
  ctx := none

/-- The TCP master at reset (R381); `unit` is a DESIGN CHOICE (log 4). -/
def TcpMaster.reset : TcpMaster where
  unit := Config.unitReset
  timeoutMs := Config.tcpTimeoutMs
  state := .idle
  conn := false
  txn := Config.txnReset
  ctx := none
  rxs := []
  txs := []

/-- The machine right after reset: the creation of all instances at once, with `NOW = 0` (70_reset_and_hazards.md R380,
R381). -/
def State.reset : State where
  crcAcc := 0xFFFF#16
  bs := Channel.reset
  can := Can.reset
  sl := Slave.reset
  rm := RtuMaster.reset
  tm := TcpMaster.reset
  now := 0
  out := []
  params := Config.params
  returns := []
  waits := []
  stops := []
  inbox := []

end Sys2Proof.Machine
end

