-- ==== Sys2Proof/Machine/Flags.lean ====
section
/-! DEFINITION. The status flags and the guards. The block has no condition codes (10_state.md R22): what a host can
observe are the states of the units, and an event or internal step is enabled exactly when its guard holds
(60_exceptions.md R348, R349). -/
namespace Sys2Proof.Machine

/-- `BS.STATE = Open`. -/
def Channel.isOpen (ch : Channel) : Bool := ch.state == .opened

/-- The serial line may take `k` bytes (41_bytestream.md R162): the channel is open, and `k` lies in
`1 .. min(WRITE_CHUNK, |WQ|)`; so the queue is not empty. -/
def Channel.drainAdmits (ch : Channel) (writeChunk k : Nat) : Bool :=
  ch.isOpen && decide (1 ≤ k) && decide (k ≤ min writeChunk ch.wq.length)

/-- The receive path is started: `CAN.THREAD /= Stopped` (42_can.md R191, R195, R198). DESIGN CHOICE (log 20): so too between
the thread's end and the last step of `stop`, where the normal path is active already, although 92_eei_decisions.md D17 calls
the thread path active to the end of `stop`. -/
def Can.started (c : Can) : Bool := c.thread != .stopped

/-- `CanNormalDrain` is enabled (R195). -/
def Can.drainEnabled (c : Can) : Bool := !c.started && !c.devq.isEmpty

/-- `CanThreadStep` is enabled (R199): active, or asleep with the wake time reached (R204). -/
def Can.stepEnabled (c : Can) (now : Nat) : Bool :=
  match c.thread with
  | .stopped => false
  | .active => true
  | .sleeping => decide (c.wake ≤ now)

/-- `SlaveRx` is enabled (43_frame_parser.md R231). -/
def Slave.rxEnabled (sl : Slave) : Bool := sl.bs.isOpen && !sl.bs.rb.isEmpty

/-- `GapFire` is enabled (R232). -/
def Slave.gapExpired (sl : Slave) (now : Nat) : Bool := sl.gapArmed && decide (sl.gapDeadline ≤ now)

/-- The slave's configuration may be written (70_reset_and_hazards.md R392). -/
def Slave.inactive (sl : Slave) : Bool := !sl.bs.isOpen && sl.asm.isEmpty

/-- `RM.STATE = Idle`. -/
def RtuMaster.isIdle (m : RtuMaster) : Bool := m.state == .idle

/-- `TM.STATE = Idle`. -/
def TcpMaster.isIdle (m : TcpMaster) : Bool := m.state == .idle

/-- The outstanding request of the RTU master, when `MasterPoll` is enabled (45_masters.md R305). -/
def RtuMaster.pending (m : RtuMaster) : Option TransactionContext := if m.isIdle then none else m.ctx

/-- The outstanding request of the TCP master, when `TcpPoll` is enabled (R323). -/
def TcpMaster.pending (m : TcpMaster) : Option TransactionContext := if m.isIdle then none else m.ctx

end Sys2Proof.Machine
end

