-- ==== Sys2Proof/Machine/Operands.lean ====
section
/-! DEFINITION. Operands: the legal sets host operations test (00_scope.md R10, R11; 41_bytestream.md R152), the 16-bit
fields of a PDU (30_encoding.md R97), the request each of the eight master operations sends (R102 to R109; 45_masters.md
R310 to R317), and the decoding of a response (R308). -/
namespace Sys2Proof.Machine

/-- The legal serial configurations (R11, R152). -/
def legalSerialCfg (c : SerialCfg) : Bool :=
  (c.dataBits == 5 || c.dataBits == 6 || c.dataBits == 7 || c.dataBits == 8) && c.parity != .illegal &&
    (c.stopBits == 1 || c.stopBits == 2) && c.baud != 0

/-- A unit address in 1 to 247 (R10, 30_encoding.md R115). -/
def legalUnit (n : Nat) : Bool := decide (Config.addrMin ≤ n) && decide (n ≤ Config.addrMax)

/-- Whether a nat fits a 16-bit field. -/
def fitsWord (n : Nat) : Bool := decide (n ≤ 65535)

/-- A nat as a 16-bit field. -/
def toWord (n : Nat) : Word := BitVec.ofNat 16 n

/-- The 16-bit field of a PDU at data offset `k` (30_encoding.md R97). -/
def field (data : List Byte) (k : Nat) : Word := be16 (data.getD k 0#8) (data.getD (k + 1) 0#8)

/-- A 16-bit field as its two bytes (R97). -/
def fieldBytes (v : Word) : List Byte := [hi8 v, lo8 v]

/-- The byte of a function code (30_encoding.md R110). -/
def FunctionCode.code : FunctionCode → Byte
  | .readCoils => 0x01#8
  | .readDiscreteInputs => 0x02#8
  | .readHoldingRegisters => 0x03#8
  | .readInputRegisters => 0x04#8
  | .writeSingleCoil => 0x05#8
  | .writeSingleRegister => 0x06#8
  | .writeMultipleCoils => 0x0F#8
  | .writeMultipleRegisters => 0x10#8

/-- The place of a master operation among the eight (R111): its index is 0x40 plus this on the RTU master, 0x50 plus
this on the TCP master. -/
def FunctionCode.slot : FunctionCode → Byte
  | .readCoils => 0#8
  | .readDiscreteInputs => 1#8
  | .readHoldingRegisters => 2#8
  | .readInputRegisters => 3#8
  | .writeSingleCoil => 4#8
  | .writeSingleRegister => 5#8
  | .writeMultipleCoils => 6#8
  | .writeMultipleRegisters => 7#8

/-- The failure result of an operation (60_exceptions.md R345): the empty list for a read, false for a write. -/
def FunctionCode.failure : FunctionCode → Result
  | .readCoils => .bools []
  | .readDiscreteInputs => .bools []
  | .readHoldingRegisters => .words []
  | .readInputRegisters => .words []
  | .writeSingleCoil => .bool false
  | .writeSingleRegister => .bool false
  | .writeMultipleCoils => .bool false
  | .writeMultipleRegisters => .bool false

/-- A request before it is sent: function code, request data, the parameters its response is decoded with, and whether
every argument lies in the range its rule gives (45_masters.md R302). -/
structure Request where
  fc : FunctionCode
  data : List Byte
  params : ReqParams
  legal : Bool
deriving DecidableEq, Repr

/-- The read requests (R310 to R313): `[start:2][count:2]`, `count` in 1 to the maximum. -/
def readRequest (fc : FunctionCode) (max start count : Nat) : Request where
  fc := fc
  data := fieldBytes (toWord start) ++ fieldBytes (toWord count)
  params := ⟨toWord start, toWord count⟩
  legal := fitsWord start && fitsWord count && decide (1 ≤ count) && decide (count ≤ max)

/-- The value field of a coil (30_encoding.md R106). -/
def coilValue (on : Bool) : Word := if on then 0xFF00#16 else 0x0000#16

/-- writeSingleCoil (R314): `[addr:2][value:2]`. -/
def coilRequest (addr : Nat) (on : Bool) : Request where
  fc := .writeSingleCoil
  data := fieldBytes (toWord addr) ++ fieldBytes (coilValue on)
  params := ⟨toWord addr, coilValue on⟩
  legal := fitsWord addr

/-- writeSingleRegister (R315): `[addr:2][value:2]`. -/
def registerRequest (addr : Nat) (value : Word) : Request where
  fc := .writeSingleRegister
  data := fieldBytes (toWord addr) ++ fieldBytes value
  params := ⟨toWord addr, value⟩
  legal := fitsWord addr

/-- writeMultipleCoils (R316): start, count, then a bit data block (30_encoding.md R101, R108). -/
def coilsRequest (start : Nat) (values : List Bool) : Request where
  fc := .writeMultipleCoils
  data := fieldBytes (toWord start) ++ fieldBytes (toWord values.length) ++
    BitVec.ofNat 8 (bitBytes values.length) :: packBits values
  params := ⟨toWord start, toWord values.length⟩
  legal := fitsWord start && decide (1 ≤ values.length) && decide (values.length ≤ Config.maxWriteCoils)

/-- writeMultipleRegisters (R317): start, count, then a register data block (30_encoding.md R100, R109). -/
def registersRequest (start : Nat) (values : List Word) : Request where
  fc := .writeMultipleRegisters
  data := fieldBytes (toWord start) ++ fieldBytes (toWord values.length) ++
    BitVec.ofNat 8 (2 * values.length) :: wordsToBytes values
  params := ⟨toWord start, toWord values.length⟩
  legal := fitsWord start && decide (1 ≤ values.length) && decide (values.length ≤ Config.maxWriteRegs)

/-- The four bytes a write response repeats: `addr` and `value`, or `start` and `count` (R106 to R109, R308). -/
def ReqParams.echo (q : ReqParams) : List Byte := fieldBytes q.first ++ fieldBytes q.second

/-- A data block's payload, when its byte-count byte is `n` and the block holds exactly that many bytes
(R100, R101, R308). -/
def dataBlock (n : Nat) (data : List Byte) : Option (List Byte) :=
  match data with
  | bc :: block => if bc.toNat = n ∧ block.length = n then some block else none
  | [] => none

/-- `Decode(ctx, data)` (R308): the result of a normal response, or `none` where its condition fails. -/
def decodeResponse (ctx : TransactionContext) (data : List Byte) : Option Result :=
  let count := ctx.req.second.toNat
  let coils := (dataBlock (bitBytes count) data).map fun block => Result.bools (unpackBits count block)
  let registers := (dataBlock (2 * count) data).map fun block => Result.words (bytesToWords block)
  let echo := if data = ctx.req.echo then some (Result.bool true) else none
  match ctx.fc with
  | .readCoils => coils
  | .readDiscreteInputs => coils
  | .readHoldingRegisters => registers
  | .readInputRegisters => registers
  | .writeSingleCoil => echo
  | .writeSingleRegister => echo
  | .writeMultipleCoils => echo
  | .writeMultipleRegisters => echo

/-- The taxonomy class of a failed request (60_exceptions.md R342). The caller sees only the failure result. -/
inductive FailureClass
  | timeoutError
  | checksumError
  | protocolException (code : Byte)
deriving DecidableEq, Repr

/-- How a request ends (R309): with its result, or with a class of failure. -/
inductive RequestOutcome
  | success (r : Result)
  | failure (c : FailureClass)
deriving DecidableEq, Repr

/-- What `Judge` answers (R307): the exception to surface, if there is one, and how the request ends. -/
structure Judgement where
  exception : Option (Byte × Byte)
  outcome : RequestOutcome
deriving DecidableEq, Repr

/-- `Judge(ctx, fc, data)` (R307): exception bit, function code, structure, in this order (60_exceptions.md R354). -/
def judge (ctx : TransactionContext) (fc : Byte) (data : List Byte) : Judgement :=
  match pduClass fc data with
  | .exception fc' code => ⟨some (fc', code), .failure (.protocolException code)⟩
  | .normal fc data =>
    if data.isEmpty && exceptionBit fc then ⟨none, .failure .checksumError⟩
    else if fc ≠ ctx.fc.code then ⟨none, .failure .checksumError⟩
    else
      match decodeResponse ctx data with
      | some r => ⟨none, .success r⟩
      | none => ⟨none, .failure .checksumError⟩

/-- What the caller of a finished request gets (R309). -/
def resultOf (ctx : TransactionContext) : RequestOutcome → Result
  | .success r => r
  | .failure _ => ctx.fc.failure

end Sys2Proof.Machine
end

