-- ==== Sys2Proof/Machine/Ops.lean ====
section
/-! DEFINITION. The named operations every meaning is written with: traces, channels, register banks, the exception
response (the block's exception entry), and the completion of suspended host calls. -/
namespace Sys2Proof.Machine

/-! ### Traces -/

/-- `notify N(args)` (00_scope.md R15): append to `OUT`, with the instance that raises it (60_exceptions.md R347). -/
def State.notify (s : State) (source : Source) (notice : Notice) : State :=
  { s with out := s.out ++ [⟨source, notice⟩] }

/-- A host operation returns `result` to its caller. -/
def State.ret (s : State) (source : Source) (index : Byte) (result : Result) : State :=
  { s with returns := s.returns ++ [⟨source, .operation index, result⟩] }

/-! ### Channels -/

/-- The channel instances (10_state.md R20, R37). -/
def State.chan (s : State) : Chan → Channel
  | .host => s.bs
  | .slave => s.sl.bs
  | .master => s.rm.bs

/-- Write one channel instance. -/
def State.setChan (s : State) (c : Chan) (ch : Channel) : State :=
  match c with
  | .host => { s with bs := ch }
  | .slave => { s with sl := { s.sl with bs := ch } }
  | .master => { s with rm := { s.rm with bs := ch } }

/-- The effect of `write` on the channel (41_bytestream.md R160, R151). -/
def Channel.write (ch : Channel) (bytes : List Byte) : Channel :=
  if ch.isOpen then { ch with wq := ch.wq ++ bytes } else ch

/-- The queued-length `write` returns (R160, R151). -/
def Channel.queuedLength (ch : Channel) (bytes : List Byte) : Nat := if ch.isOpen then bytes.length else 0

/-- What `readAvailable` returns (R164, R151). -/
def Channel.available (ch : Channel) : List Byte := if ch.isOpen then ch.rb else []

/-- The effect of `readAvailable` on the channel (R164). -/
def Channel.drained (ch : Channel) : Channel := if ch.isOpen then { ch with rb := [] } else ch

/-- Both buffers emptied and the state set: the common part of `close` (R153) and `ChanError` (R169). -/
def Channel.shut (ch : Channel) (state : ChanState) : Channel :=
  { ch with rb := [], wq := [], state := state }

/-- A channel just opened with this configuration (R152). -/
def Channel.openWith (ch : Channel) (cfg : SerialCfg) : Channel :=
  { ch with cfg := cfg, rb := [], wq := [], state := .opened }

/-- The ReadBuffer after an arrival, before the overflow test (R157). -/
def Channel.arrived (ch : Channel) (bytes : List Byte) : List Byte := ch.rb ++ bytes

/-- The first line of a ReadBuffer and the rest: up to and including the first terminator (R165). -/
def splitLine (term : Byte) : List Byte → Option (List Byte × List Byte)
  | [] => none
  | b :: bs =>
    if b = term then some ([b], bs)
    else
      match splitLine term bs with
      | some (line, rest) => some (b :: line, rest)
      | none => none

/-! ### Register banks -/

/-- A run of `count` registers from `start` is inside a bank (44_rtu_slave.md R262), computed in naturals. -/
def inBank (bank : List Word) (start count : Nat) : Bool := decide (start + count ≤ bank.length)

/-- `MemRead(B, addr, n)` (00_scope.md R15). -/
def memRead (bank : List Word) (addr n : Nat) : List Word := (bank.drop addr).take n

/-- `MemWrite(B, addr, n, vs)` (R15), lowest address first. -/
def memWrite (bank : List Word) (addr : Nat) : List Word → List Word
  | [] => bank
  | v :: vs => memWrite (bank.set addr v) (addr + 1) vs

/-- The holding bank replaced. -/
def State.setHolding (s : State) (bank : List Word) : State := { s with sl := { s.sl with hr := bank } }

/-- The input bank replaced. -/
def State.setInput (s : State) (bank : List Word) : State := { s with sl := { s.sl with ir := bank } }

/-! ### Responses and exceptions of the slave -/

/-- `Respond(body)` (44_rtu_slave.md R270): the body and its CRC are queued on the slave's channel, or lost when it is
not open. -/
def State.respond (s : State) (body : List Byte) : State :=
  s.setChan .slave ((s.chan .slave).write (sealFrame body))

/-- `raise E` inside the slave (R272): THE EXCEPTION ENTRY of this block. The notification carries the request's function
code with bit 7 clear, as the table of notifications gives the argument (60_exceptions.md R347; 30_encoding.md R110; DEDUCED,
log 16), then the exception response is queued; nothing else changes (R358, R359), and there is no return from it (R362). -/
def State.raiseException (s : State) (unit fc : Byte) (code : ExceptionCode) : State :=
  (s.notify .slave (.modbusException (fc &&& 0x7F#8) code.toByte)).respond [unit, fc ||| 0x80#8, code.toByte]

/-! ### Requests whose link has failed -/

/-- The channel or the connection of an outstanding request has failed: from here on the request fails at its deadline, not
earlier (41_bytestream.md R169; 45_masters.md R326, R328; 60_exceptions.md R363). -/
def TransactionContext.lose (ctx : TransactionContext) : TransactionContext := { ctx with lost := true }

/-- The outstanding request of the master that owns the channel, if one does, has lost it (41_bytestream.md R169). -/
def State.loseRequest (s : State) : Chan → State
  | .host => s
  | .slave => s
  | .master => { s with rm := { s.rm with ctx := s.rm.ctx.map TransactionContext.lose } }

/-! ### Suspended host calls

`waitReady` and `stop` span several steps; the last is a step of its own, and which of those that are enabled comes next is an
input (60_exceptions.md R373). DEDUCED (log 10): R167 and R208 say "the first step at which" a condition holds, so while a
`waitReady` is due or a `stop`'s join time is up, the next step is such a last step; the last step of a `stop` whose thread
has ended may come at any later time. -/

/-- The conditions of `waitReady` in their order (41_bytestream.md R167): the result, or `none` while it waits. -/
def State.waitOutcome (s : State) (w : Wait) : Option Bool :=
  if (s.chan w.chan).isOpen then
    if (s.chan w.chan).rb.isEmpty then if w.deadline ≤ s.now then some false else none
    else some true
  else some false

/-- The call of `waitReady` (R167): it returns at once when one of its conditions holds, else it is suspended. -/
def State.callWait (s : State) (w : Wait) : State :=
  match s.waitOutcome w with
  | some b => s.ret (.chan w.chan) 0x16#8 (.bool b)
  | none => { s with waits := s.waits ++ [w] }

/-- The first element that `p` accepts, what `p` says of it, and the list without it. -/
def takeFirst {α β : Type} (p : α → Option β) : List α → Option (α × β × List α)
  | [] => none
  | a :: as =>
    match p a with
    | some b => some (a, b, as)
    | none =>
      match takeFirst p as with
      | some (x, b, rest) => some (x, b, a :: rest)
      | none => none

/-- The last step of a `waitReady` call: its result; `rest` are the calls that go on waiting. -/
def State.endWait (s : State) (w : Wait) (b : Bool) (rest : List Wait) : State :=
  ({ s with waits := rest }).ret (.chan w.chan) 0x16#8 (.bool b)

/-- The call has seen its thread end (R198, R207): `start` is about to create another. -/
def StopCall.join (c : StopCall) : StopCall := { c with joined := true }

/-- The end of `stop` (R207): the thread it waits for is `Stopped`, by force if it was not yet, and the queue is cleared.
DEDUCED (log 10): a path that `start` created since is not the one the call ends: its thread goes on (R208), and its queue
keeps its frames, each of which is accounted for (10_state.md R32); `start` has cleared the old queue (R198). -/
def Can.halted (can : Can) (c : StopCall) : Can :=
  if c.joined then can else { can with thread := .stopped, q := [] }

/-- The last step of a `stop` call (R207); `rest` are the calls that go on waiting. -/
def State.endStop (s : State) (c : StopCall) (rest : List StopCall) : State :=
  ({ s with can := s.can.halted c, stops := rest }).ret .can 0x21#8 .void

/-- The join time of a `stop` call is up (R207, R208). -/
def State.joinOver (s : State) (c : StopCall) : Option Unit := if c.deadline ≤ s.now then some () else none

/-- The wait of a `stop` call is over (R207): its thread has ended, or the join time is up. -/
def State.stopOver (s : State) (c : StopCall) : Bool := c.joined || !s.can.started || decide (c.deadline ≤ s.now)

/-- The last step of the `k`th suspended `waitReady` call, oldest first, where it is enabled (R167, R373). -/
def State.waitReturns (s : State) (k : Nat) : Option State :=
  match s.waits[k]? with
  | some w =>
    match s.waitOutcome w with
    | some b => some (s.endWait w b (s.waits.eraseIdx k))
    | none => none
  | none => none

/-- The last step of the `k`th suspended `stop` call, oldest first, where it is enabled (R207, R373). -/
def State.stopReturns (s : State) (k : Nat) : Option State :=
  match s.stops[k]? with
  | some c => if s.stopOver c then some (s.endStop c (s.stops.eraseIdx k)) else none
  | none => none

/-- The last step the head of the inbox names, where it is enabled: any of them, in any order (R373). -/
def State.chosenReturn (s : State) : Option State :=
  match s.inbox with
  | .waitReturns k :: rest => State.waitReturns { s with inbox := rest } k
  | .stopReturns k :: rest => State.stopReturns { s with inbox := rest } k
  | .operation _ :: _ => none
  | .configure _ :: _ => none
  | [] => none

/-- The last step that comes next when one must (R167, R208) and the inbox names none. DESIGN CHOICE (log 10): the oldest due
`waitReady`, and when none is due the oldest due `stop`; every other order is some inbox (`State.chosenReturn`). -/
def State.mustReturn (s : State) : Option State :=
  match takeFirst s.waitOutcome s.waits with
  | some (w, b, rest) => some (s.endWait w b rest)
  | none =>
    match takeFirst s.joinOver s.stops with
    | some (c, _, rest) => some (s.endStop c rest)
    | none => none

end Sys2Proof.Machine
end

