-- ==== Sys2Proof/Machine/Configure.lean ====
section
/-! DEFINITION. Configuration writes (70_reset_and_hazards.md R391, R392). They have no operation index; they are inputs
of their own kind. -/
namespace Sys2Proof.Machine

/-- The unit a configuration write is for. -/
def ConfigWrite.source : ConfigWrite → Source
  | .canBitrate _ => .can
  | .canQcap _ => .can
  | .canVcap _ => .can
  | .canPrio _ => .can
  | .slAddr _ => .slave
  | .slGapMs _ => .slave
  | .rmUnit _ => .rtuMaster
  | .rmTimeoutMs _ => .rtuMaster
  | .tmUnit _ => .tcpMaster
  | .tmTimeoutMs _ => .tcpMaster

/-- The value lies in its field's legal set (10_state.md R46; 42_can.md R200 for the capacities). -/
def ConfigWrite.legal : ConfigWrite → Bool
  | .canBitrate v => decide (1 ≤ v)
  | .canQcap v => decide (1 ≤ v)
  | .canVcap v => decide (1 ≤ v)
  | .canPrio _ => true
  | .slAddr v => legalUnit v
  | .slGapMs v => decide (1 ≤ v)
  | .rmUnit v => legalUnit v
  | .rmTimeoutMs v => decide (1 ≤ v)
  | .tmUnit v => legalUnit v
  | .tmTimeoutMs v => decide (1 ≤ v)

/-- The unit is inactive (R392). DESIGN CHOICE (log 12): a capacity below the number of frames its buffer holds is refused
too, so that R30 and R31 hold after every step. -/
def State.mayConfigure (s : State) : ConfigWrite → Bool
  | .canBitrate _ => !s.can.started
  | .canQcap v => !s.can.started && decide (s.can.q.length ≤ v)
  | .canVcap v => !s.can.started && decide (s.can.vbuf.length ≤ v)
  | .canPrio _ => !s.can.started
  | .slAddr _ => s.sl.inactive
  | .slGapMs _ => s.sl.inactive
  | .rmUnit _ => s.rm.isIdle
  | .rmTimeoutMs _ => s.rm.isIdle
  | .tmUnit _ => s.tm.isIdle
  | .tmTimeoutMs _ => s.tm.isIdle

/-- The field written. -/
def State.setConfig (s : State) : ConfigWrite → State
  | .canBitrate v => { s with can := { s.can with bitrate := v } }
  | .canQcap v => { s with can := { s.can with qcap := v } }
  | .canVcap v => { s with can := { s.can with vcap := v } }
  | .canPrio v => { s with can := { s.can with prio := v } }
  | .slAddr v => { s with sl := { s.sl with addr := BitVec.ofNat 8 v } }
  | .slGapMs v => { s with sl := { s.sl with gapMs := v } }
  | .rmUnit v => { s with rm := { s.rm with unit := BitVec.ofNat 8 v } }
  | .rmTimeoutMs v => { s with rm := { s.rm with timeoutMs := v } }
  | .tmUnit v => { s with tm := { s.tm with unit := BitVec.ofNat 8 v } }
  | .tmTimeoutMs v => { s with tm := { s.tm with timeoutMs := v } }

/-- The result of a configuration write. -/
def State.retConfigure (s : State) (w : ConfigWrite) (b : Bool) : State :=
  { s with returns := s.returns ++ [⟨w.source, .configure, .bool b⟩] }

/-- One configuration write: a unit address outside its legal set is a ConfigurationError and changes nothing (R391;
60_exceptions.md R342); a write while the unit is active is refused (R392). DESIGN CHOICE (log 12): the other fields answer a
value outside their legal set (10_state.md R46) in the same way, and where a value is illegal and the unit active too, the
value is tested first, so the ConfigurationError is raised. -/
def State.configure (s : State) (w : ConfigWrite) : State :=
  if !w.legal then (s.notify w.source (.error .configurationError)).retConfigure w false
  else if !s.mayConfigure w then s.retConfigure w false
  else (s.setConfig w).retConfigure w true

end Sys2Proof.Machine
end

