-- ==== Sys2Proof/Machine/ByteStream.lean ====
section
/-! DEFINITION. The Byte-Stream Channel (41_bytestream.md): the seven host operations on any channel instance, and the
events `RxBytes`, `TxDrain`, `ChanError`. -/
namespace Sys2Proof.Machine

/-- The error the environment's draw reports, if it is one (R152). -/
def openError : OpenDraw → Option ErrorKind
  | .ok => none
  | .deviceNotFound => some .deviceNotFound
  | .permission => some .permission
  | .openFailure => some .openFailure

/-- `open(config)` (R152, R154). -/
def execBsOpen (c : Chan) (config : SerialCfg) (draw : OpenDraw) (s : State) : Host.Outcome State Fault Refusal :=
  let ch := s.chan c
  .next <|
    if ch.isOpen then s.ret (.chan c) 0x10#8 (.bool false)
    else if !legalSerialCfg config then
      (s.notify (.chan c) (.error .configurationError)).ret (.chan c) 0x10#8 (.bool false)
    else
      match openError draw with
      | none => ((s.setChan c (ch.openWith config)).notify (.chan c) .connected).ret (.chan c) 0x10#8 (.bool true)
      | some e =>
        ((s.setChan c { ch with state := .errored }).notify (.chan c) (.error e)).ret (.chan c) 0x10#8 (.bool false)

/-- `close()` (R153). DESIGN CHOICE (log 19): a close is no channel error, so a request of the master that is outstanding on
the channel is not lost. -/
def execBsClose (c : Chan) (s : State) : Host.Outcome State Fault Refusal :=
  let ch := s.chan c
  let shut := s.setChan c (ch.shut .closed)
  .next ((if ch.isOpen then shut.notify (.chan c) .disconnected else shut).ret (.chan c) 0x11#8 .void)

/-- `write(bytes)` (R160). -/
def execBsWrite (c : Chan) (bytes : List Byte) (s : State) : Host.Outcome State Fault Refusal :=
  let ch := s.chan c
  .next ((s.setChan c (ch.write bytes)).ret (.chan c) 0x12#8 (.count (ch.queuedLength bytes)))

/-- `readAvailable()` (R164). -/
def execBsReadAvailable (c : Chan) (s : State) : Host.Outcome State Fault Refusal :=
  let ch := s.chan c
  .next ((s.setChan c ch.drained).ret (.chan c) 0x13#8 (.bytes ch.available))

/-- `readLine()` (R165): on a channel that is not open there is nothing to return (R151). -/
def execBsReadLine (c : Chan) (s : State) : Host.Outcome State Fault Refusal :=
  let ch := s.chan c
  .next <|
    match splitLine s.params.lineTerm ch.available with
    | some (line, rest) => (s.setChan c { ch with rb := rest }).ret (.chan c) 0x14#8 (.bytes line)
    | none => s.ret (.chan c) 0x14#8 (.bytes [])

/-- `bytesAvailable()` (R166). -/
def execBsBytesAvailable (c : Chan) (s : State) : Host.Outcome State Fault Refusal :=
  .next (s.ret (.chan c) 0x15#8 (.count (s.chan c).available.length))

/-- `waitReady(timeout)` (R167): it returns at once when one of its conditions holds, else the call is suspended
until one does (`State.mustReturn`). -/
def execBsWaitReady (c : Chan) (timeout : Nat) (s : State) : Host.Outcome State Fault Refusal :=
  .next (s.callWait ⟨c, s.now + timeout⟩)

/-- `RxBytes(bs)` (R157, R158, R151). -/
def execBsRxBytes (c : Chan) (bytes : List Byte) (s : State) : Host.Outcome State Fault Refusal :=
  let ch := s.chan c
  let rb := ch.arrived bytes
  .next <|
    if ch.isOpen then
      if s.params.readCap < rb.length then
        ((s.setChan c { ch with rb := lastN s.params.readKeep rb }).notify (.chan c)
          (.readBufferWarning (rb.length - s.params.readKeep))).notify (.chan c) (.dataReceived bytes.length)
      else (s.setChan c { ch with rb := rb }).notify (.chan c) (.dataReceived bytes.length)
    else s

/-- `TxDrain(k)` (R162): the line takes the first `k` bytes of the chunk offered. -/
def execBsTxDrain (c : Chan) (k : Nat) (s : State) : Host.Outcome State Fault Refusal :=
  let ch := s.chan c
  .next <|
    if ch.drainAdmits s.params.writeChunk k then
      s.setChan c { ch with tx := ch.tx ++ ch.wq.take k, wq := ch.wq.drop k }
    else s

/-- The notification's kind of a device error (60_exceptions.md R344). -/
def deviceError : DeviceError → ErrorKind
  | .readError => .readError
  | .writeError => .writeError
  | .resourceGone => .resourceGone
  | .timeout => .timeout

/-- `ChanError(kind)` (R169). A request of the master that is outstanding on the channel is lost: it fails at its deadline. -/
def execBsChanError (c : Chan) (kind : DeviceError) (s : State) : Host.Outcome State Fault Refusal :=
  let ch := s.chan c
  .next <|
    if ch.isOpen then
      (((s.setChan c (ch.shut .errored)).loseRequest c).notify (.chan c) (.error (deviceError kind))).notify (.chan c)
        .disconnected
    else s

end Sys2Proof.Machine
end

