-- ==== Sys2Proof/Machine/CanUnit.lean ====
section
/-! DEFINITION. The CAN Channel (42_can.md): the receive path's start and stop, the five host reads, the device arrival,
the normal-path drain and one iteration of the receive thread. -/
namespace Sys2Proof.Machine

/-- The active buffer (R191): the queue while the receive path is started, else the normal-path buffer. -/
def Can.activeBuffer (c : Can) : List CanFrame := if c.started then c.q else c.vbuf

/-- The active buffer replaced. -/
def Can.setActiveBuffer (c : Can) (fs : List CanFrame) : Can :=
  if c.started then { c with q := fs } else { c with vbuf := fs }

/-- `enqueue(f)` (R200): the new frame is always accepted; a full queue loses its oldest. -/
def Can.enqueue (c : Can) (f : CanFrame) : Can :=
  if c.qcap ≤ c.q.length then
    { c with q := c.q.drop 1 ++ [f], received := c.received + 1, dropped := c.dropped + 1 }
  else { c with q := c.q ++ [f], received := c.received + 1 }

/-- An overflow notification is due for this push (R200, R201): it drops a frame, and the counter after the drop is a
multiple of OVF_NOTIFY_EVERY. -/
def Can.overflowDue (c : Can) (every : Nat) : Bool :=
  decide (c.qcap ≤ c.q.length) && decide ((c.dropped + 1) % every = 0)

/-- `start()` (R198). A `stop` still suspended has seen its thread end: the new thread is not the one it waits for
(log 10). -/
def execCanStart (s : State) : Host.Outcome State Fault Refusal :=
  .next <| State.ret (source := .can) (index := 0x20#8) (result := .void) <|
    if s.can.started then s
    else
      { s with
        can := { s.can with q := [], received := 0, dropped := 0, running := true, thread := .active }
        stops := s.stops.map StopCall.join }

/-- `stop()` (R207): at once when the path is not started; else the flag is cleared and the call is suspended until its
last step (`State.stopReturns`, once the thread has ended or the join time is up; `State.mustReturn`, when it is up). -/
def execCanStop (s : State) : Host.Outcome State Fault Refusal :=
  .next <|
    if s.can.started then
      { s with can := { s.can with running := false }, stops := s.stops ++ [⟨s.now + s.params.joinTimeoutMs, false⟩] }
    else s.ret .can 0x21#8 .void

/-- `readFrame()` (R209). -/
def execCanReadFrame (s : State) : Host.Outcome State Fault Refusal :=
  .next <|
    match s.can.activeBuffer with
    | [] => s.ret .can 0x22#8 (.frameOrNone none)
    | f :: rest => ({ s with can := s.can.setActiveBuffer rest }).ret .can 0x22#8 (.frameOrNone (some f))

/-- `readAllFrames()` (R210): oldest first (90_conflicts.md C1). -/
def execCanReadAllFrames (s : State) : Host.Outcome State Fault Refusal :=
  .next (({ s with can := s.can.setActiveBuffer [] }).ret .can 0x23#8 (.frames s.can.activeBuffer))

/-- `bufferedCount()` (R211). -/
def execCanBufferedCount (s : State) : Host.Outcome State Fault Refusal :=
  .next (s.ret .can 0x24#8 (.count s.can.activeBuffer.length))

/-- `receivedCount()` (R212). -/
def execCanReceivedCount (s : State) : Host.Outcome State Fault Refusal :=
  .next (s.ret .can 0x25#8 (.count s.can.received))

/-- `droppedCount()` (R213). -/
def execCanDroppedCount (s : State) : Host.Outcome State Fault Refusal :=
  .next (s.ret .can 0x26#8 (.count s.can.dropped))

/-- `CanArrive(f)` (R192). -/
def execCanArrive (f : CanFrame) (s : State) : Host.Outcome State Fault Refusal :=
  .next { s with can := { s.can with devq := s.can.devq ++ [f] } }

/-- `CanNormalDrain` (R195): the counters are not touched. -/
def execCanNormalDrain (s : State) : Host.Outcome State Fault Refusal :=
  .next <|
    if s.can.drainEnabled then
      { s with
        can := { s.can with vbuf := lastN s.can.vcap (s.can.vbuf ++ s.can.devq), devq := [] }
        out := s.out ++ s.can.devq.map fun f => ⟨.can, .frameReceived f⟩ }
    else s

/-- One iteration of the receive thread with its running-flag set (R199): push one frame, or go to sleep (R204). -/
def State.threadTurn (s : State) : State :=
  match s.can.devq with
  | f :: rest =>
    let pushed := { s with can := { s.can.enqueue f with devq := rest, thread := .active } }
    let warned := if s.can.overflowDue s.params.ovfNotifyEvery then
        pushed.notify .can (.bufferOverflow pushed.can.dropped) else pushed
    warned.notify .can (.frameReceived f)
  | [] => { s with can := { s.can with thread := .sleeping, wake := s.now + s.params.canIdleSleepMs } }

/-- `CanThreadStep` (R199): with the flag cleared the loop ends. -/
def execCanThreadStep (s : State) : Host.Outcome State Fault Refusal :=
  .next <|
    if s.can.stepEnabled s.now then
      if s.can.running then s.threadTurn else { s with can := { s.can with thread := .stopped } }
    else s

end Sys2Proof.Machine
end

