-- ==== Sys2Proof/Machine/CrcUnit.lean ====
section
/-! DEFINITION. The CRC16 unit: `CRC_INIT`, `CRC_BYTE`, `CRC_READ`, `CRC16` (40_crc16.md R131 to R134). -/
namespace Sys2Proof.Machine

/-- `CRC_INIT()` (R132). -/
def execCrcInit (s : State) : Host.Outcome State Fault Refusal :=
  .next (({ s with crcAcc := 0xFFFF#16 }).ret .crc 0x00#8 .void)

/-- `CRC_BYTE(b)` (R133). -/
def execCrcByte (b : Byte) (s : State) : Host.Outcome State Fault Refusal :=
  .next (({ s with crcAcc := crcUpdate s.crcAcc b }).ret .crc 0x01#8 .void)

/-- `CRC_READ()` (R134). -/
def execCrcRead (s : State) : Host.Outcome State Fault Refusal :=
  .next (s.ret .crc 0x02#8 (.u16 s.crcAcc))

/-- `CRC16(bytes)` (R131): the pure function; `CRC.ACC` is neither read nor written (30_encoding.md R121). -/
def execCrc16 (bytes : List Byte) (s : State) : Host.Outcome State Fault Refusal :=
  .next (s.ret .crc 0x03#8 (.u16 (crc16 bytes)))

end Sys2Proof.Machine
end

