-- ==== Sys2Proof/Machine/SlaveHost.lean ====
section
/-! DEFINITION. The host's access to the slave's register banks (44_rtu_slave.md R276 to R279). -/
namespace Sys2Proof.Machine

/-- `setHoldingRegister(addr, value)` (R276). -/
def execSlSetHoldingRegister (addr : Nat) (value : Word) (s : State) : Host.Outcome State Fault Refusal :=
  .next <|
    if inBank s.sl.hr addr 1 then (s.setHolding (s.sl.hr.set addr value)).ret .slave 0x30#8 (.bool true)
    else s.ret .slave 0x30#8 (.bool false)

/-- `getHoldingRegister(addr)` (R277). -/
def execSlGetHoldingRegister (addr : Nat) (s : State) : Host.Outcome State Fault Refusal :=
  .next (s.ret .slave 0x31#8 (.valueOrNone s.sl.hr[addr]?))

/-- `setInputRegister(addr, value)` (R278). -/
def execSlSetInputRegister (addr : Nat) (value : Word) (s : State) : Host.Outcome State Fault Refusal :=
  .next <|
    if inBank s.sl.ir addr 1 then (s.setInput (s.sl.ir.set addr value)).ret .slave 0x32#8 (.bool true)
    else s.ret .slave 0x32#8 (.bool false)

/-- `getInputRegister(addr)` (R279). -/
def execSlGetInputRegister (addr : Nat) (s : State) : Host.Outcome State Fault Refusal :=
  .next (s.ret .slave 0x33#8 (.valueOrNone s.sl.ir[addr]?))

end Sys2Proof.Machine
end

