-- ==== Sys2Proof/Machine/SlaveWire.lean ====
section
/-! DEFINITION. The Modbus RTU slave as it executes wire opcodes (44_rtu_slave.md R260 to R274), the exception response it
builds, and its two internal steps `SlaveRx` and `GapFire` (43_frame_parser.md R231, R232). -/
namespace Sys2Proof.Machine

/-- A register read of either bank (R266, R267): structure and quantity first, then the address range (R261). -/
def State.slaveRead (s : State) (fc : Byte) (bank : List Word) (unit : Byte) (data : List Byte) : State :=
  let start := (field data 0).toNat
  let count := (field data 2).toNat
  if data.length ≠ 4 then s.raiseException unit fc .illegalDataValue
  else if count < 1 ∨ Config.maxReadRegs < count then s.raiseException unit fc .illegalDataValue
  else if !inBank bank start count then s.raiseException unit fc .illegalDataAddress
  else
    (s.notify .slave (.readRequest fc start count)).respond
      ([unit, fc, BitVec.ofNat 8 (2 * count)] ++ wordsToBytes (memRead bank start count))

/-- `ExecReadHolding(unit, data)` (R266). -/
def State.slaveReadHolding (s : State) (unit : Byte) (data : List Byte) : State :=
  s.slaveRead 0x03#8 s.sl.hr unit data

/-- `ExecReadInput(unit, data)` (R267). -/
def State.slaveReadInput (s : State) (unit : Byte) (data : List Byte) : State :=
  s.slaveRead 0x04#8 s.sl.ir unit data

/-- `ExecWriteSingle(unit, data)` (R268). -/
def State.slaveWriteSingle (s : State) (unit : Byte) (data : List Byte) : State :=
  let addr := (field data 0).toNat
  let value := field data 2
  if data.length ≠ 4 then s.raiseException unit 0x06#8 .illegalDataValue
  else if !inBank s.sl.hr addr 1 then s.raiseException unit 0x06#8 .illegalDataAddress
  else
    ((s.setHolding (s.sl.hr.set addr value)).notify .slave (.writeRequest addr value)).respond
      ([unit, 0x06#8] ++ data)

/-- The `writeRequest` notifications of a register run, lowest address first (R269, R273). -/
def writeRequests (addr : Nat) : List Word → List Notification
  | [] => []
  | v :: vs => ⟨.slave, .writeRequest addr v⟩ :: writeRequests (addr + 1) vs

/-- `ExecWriteMultiple(unit, data)` (R269): all or none. -/
def State.slaveWriteMultiple (s : State) (unit : Byte) (data : List Byte) : State :=
  let start := (field data 0).toNat
  let count := (field data 2).toNat
  let bc := (data.getD 4 0#8).toNat
  let values := bytesToWords (data.drop 5)
  if data.length < 5 then s.raiseException unit 0x10#8 .illegalDataValue
  else if count < 1 ∨ Config.maxWriteRegs < count then s.raiseException unit 0x10#8 .illegalDataValue
  else if bc ≠ 2 * count ∨ data.length ≠ 5 + bc then s.raiseException unit 0x10#8 .illegalDataValue
  else if !inBank s.sl.hr start count then s.raiseException unit 0x10#8 .illegalDataAddress
  else
    let written := s.setHolding (memWrite s.sl.hr start values)
    ({ written with out := written.out ++ writeRequests start values }).respond ([unit, 0x10#8] ++ data.take 4)

/-- Any other function code (R265): the data are not examined. -/
def State.slaveUnsupported (s : State) (unit fc : Byte) : State := s.raiseException unit fc .illegalFunction

/-- The execution of an accepted frame (R260). -/
def State.slaveRun (s : State) (p : RtuPdu) : State :=
  match p.fc.toNat with
  | 0x03 => s.slaveReadHolding p.unit p.data
  | 0x04 => s.slaveReadInput p.unit p.data
  | 0x06 => s.slaveWriteSingle p.unit p.data
  | 0x10 => s.slaveWriteMultiple p.unit p.data
  | _ => s.slaveUnsupported p.unit p.fc

/-- `SlaveProcess(F)` (R260): a rejected frame vanishes (43_frame_parser.md R230, R245). -/
def State.slaveProcess (s : State) (frame : List Byte) : State :=
  match rtuCheck frame s.sl.addr with
  | .error _ => s
  | .ok p => s.slaveRun p

/-- Wire opcode 0x03 in a CRC-valid frame: executed when the frame is addressed to this slave, else discarded silently
(R238, R266). -/
def execSlvReadHoldingRegisters (unit : Byte) (data : List Byte) (s : State) : Host.Outcome State Fault Refusal :=
  .next (if unit = s.sl.addr then s.slaveReadHolding unit data else s)

/-- Wire opcode 0x04 in a CRC-valid frame (R238, R267). -/
def execSlvReadInputRegisters (unit : Byte) (data : List Byte) (s : State) : Host.Outcome State Fault Refusal :=
  .next (if unit = s.sl.addr then s.slaveReadInput unit data else s)

/-- Wire opcode 0x06 in a CRC-valid frame (R238, R268). -/
def execSlvWriteSingleRegister (unit : Byte) (data : List Byte) (s : State) : Host.Outcome State Fault Refusal :=
  .next (if unit = s.sl.addr then s.slaveWriteSingle unit data else s)

/-- Wire opcode 0x10 in a CRC-valid frame (R238, R269). -/
def execSlvWriteMultipleRegisters (unit : Byte) (data : List Byte) (s : State) : Host.Outcome State Fault Refusal :=
  .next (if unit = s.sl.addr then s.slaveWriteMultiple unit data else s)

/-- Every other wire opcode in a CRC-valid frame (R238, R265). -/
def execSlvUnsupportedFunction (unit fc : Byte) (_data : List Byte) (s : State) : Host.Outcome State Fault Refusal :=
  .next (if unit = s.sl.addr then s.slaveUnsupported unit fc else s)

/-- The exception response (R272); its unit address is the slave's own (R271). -/
def execExceptionResponseBuild (fc : Byte) (code : ExceptionCode) (s : State) : Host.Outcome State Fault Refusal :=
  .next (s.raiseException s.sl.addr fc code)

/-- `SlaveRx` (R231): the slave takes the newly arrived bytes and restarts the gap timer. -/
def execSlSlaveRx (s : State) : Host.Outcome State Fault Refusal :=
  .next <|
    if s.sl.rxEnabled then
      { s with
        sl := { s.sl with
          bs := s.sl.bs.drained
          asm := s.sl.asm ++ s.sl.bs.available
          gapArmed := true
          gapDeadline := s.now + s.sl.gapMs } }
    else s

/-- `GapFire` (R232): the assembled bytes are one frame; the buffer is cleared whatever the frame's fate. -/
def execSlGapFire (s : State) : Host.Outcome State Fault Refusal :=
  .next <|
    if s.sl.gapExpired s.now then
      State.slaveProcess { s with sl := { s.sl with asm := [], gapArmed := false } } s.sl.asm
    else s

end Sys2Proof.Machine
end

