-- ==== Sys2Proof/Machine/RtuMasterUnit.lean ====
section
/-! DEFINITION. The Modbus RTU master (45_masters.md R300 to R318): the transaction, the eight host operations, the eight
wire opcodes it encodes and decodes, the exception response as the RTU master decodes it, and `MasterPoll`. -/
namespace Sys2Proof.Machine

/-- Refusal before sending (R302): a request is outstanding, the channel is not open, or an argument is out of range. -/
def RtuMaster.refuses (m : RtuMaster) (q : Request) : Bool := !m.isIdle || !m.bs.isOpen || !q.legal

/-- The send step (R301, R303): clear the incoming buffer, queue the frame, start the timer. -/
def State.rtuSend (s : State) (q : Request) : State :=
  { s with
    rm := { s.rm with
      bs := ({ s.rm.bs with rb := [] }).write (rtuFrame s.rm.unit q.fc.code q.data)
      ctx := some
        { addr := s.rm.unit, txn := 0#16, fc := q.fc, req := q.params, issued := s.now,
          deadline := s.now + s.rm.timeoutMs, resp := [], lost := false }
      state := .awaitingResponse } }

/-- A request operation of the RTU master up to its suspension (R300, R302): refused with its failure result at once, or
sent. -/
def State.rtuCall (s : State) (q : Request) : State :=
  if s.rm.refuses q then s.ret .rtuMaster (0x40#8 + q.fc.slot) q.fc.failure else s.rtuSend q

/-- `Finish(result)` (R309): the context is destroyed and the suspended operation returns; so does a request that a wire row
began (DESIGN CHOICE, log 15). -/
def State.rtuFinish (s : State) (ctx : TransactionContext) (outcome : RequestOutcome) : State :=
  ({ s with rm := { s.rm with ctx := none, state := .idle } }).ret .rtuMaster (0x40#8 + ctx.fc.slot) (resultOf ctx outcome)

/-- `Finish(Judge(ctx, fc, data))` (R307, R309). -/
def State.rtuConclude (s : State) (ctx : TransactionContext) (fc : Byte) (data : List Byte) : State :=
  let j := judge ctx fc data
  match j.exception with
  | some (fc', code) => (s.notify .rtuMaster (.modbusException fc' code)).rtuFinish ctx j.outcome
  | none => s.rtuFinish ctx j.outcome

/-- The deadline test of `MasterPoll` (R304, R305). -/
def State.rtuDeadline (s : State) (ctx : TransactionContext) : State :=
  if ctx.deadline ≤ s.now then s.rtuFinish ctx (.failure .timeoutError) else s

/-- The bytes that have arrived, taken into the response buffer (R305). -/
def State.rtuGather (s : State) (ctx : TransactionContext) : State :=
  { s with
    rm := { s.rm with bs := s.rm.bs.drained, ctx := some { ctx with resp := ctx.resp ++ s.rm.bs.available } } }

/-- The frame `MasterPoll` accepts (R305, R306): complete, CRC-valid and from the unit asked; a rejected candidate stays
in the buffer and the wait goes on. -/
def rtuCandidate (resp : List Byte) (addr : Byte) : Option RtuPdu :=
  match rtuComplete resp with
  | some len =>
    match rtuCheck (resp.take len) addr with
    | .ok p => some p
    | .error _ => none
  | none => none

/-- The response the outstanding request is waiting for, once it is there. After a channel error none is: the call ends at the
deadline (R305; 41_bytestream.md R169), also when the channel is open again by then (log 19). -/
def TransactionContext.response (ctx : TransactionContext) (resp : List Byte) : Option RtuPdu :=
  if ctx.lost then none else rtuCandidate resp ctx.addr

/-- `MasterPoll` (R305): the response first, the deadline second. -/
def execRmMasterPoll (s : State) : Host.Outcome State Fault Refusal :=
  .next <|
    match s.rm.pending with
    | none => s
    | some ctx =>
      let s' := s.rtuGather ctx
      match ctx.response (ctx.resp ++ s.rm.bs.available) with
      | some p => s'.rtuConclude ctx p.fc p.data
      | none => s'.rtuDeadline ctx

/-- A wire opcode of the RTU master. Its request form is the send step, taken under the same conditions as the host
operation's (R302, R303). Its response form is a complete and CRC-valid response frame: judged when a request to that unit
is outstanding and its channel has not failed since (R238, R307, R169), otherwise ignored. DESIGN CHOICE (log 15): a request that a wire row began ends as one a host
operation began, with the result of that host operation's index (R309), although no host call is suspended. -/
def State.rtuWire {Req : Type} (s : State) (fc : FunctionCode) (request : Req → Request) (m : RtuMsg Req) : State :=
  match m with
  | .request q => if s.rm.refuses (request q) then s else s.rtuSend (request q)
  | .response unit data =>
    match s.rm.pending with
    | some ctx => if ctx.lost = false ∧ unit = ctx.addr then s.rtuConclude ctx fc.code data else s
    | none => s

/-- An accepted exception response at the RTU master (R240, R307); a request whose channel has failed takes none (R169). -/
def State.rtuException (s : State) (fc code : Byte) : State :=
  match s.rm.pending with
  | some ctx => if ctx.lost then s else s.rtuConclude ctx (fc ||| 0x80#8) [code]
  | none => s

/-- `RM.readCoils` (R310). -/
def execRmReadCoils (start count : Nat) (s : State) : Host.Outcome State Fault Refusal :=
  .next (s.rtuCall (readRequest .readCoils s.params.maxReadBits start count))

/-- `readCoils.rtu` (R310 with R301 to R309). -/
def execRtuReadCoils (m : RtuMsg ReadReq) (s : State) : Host.Outcome State Fault Refusal :=
  .next (s.rtuWire .readCoils (fun q => readRequest .readCoils s.params.maxReadBits q.start.toNat q.count.toNat) m)

/-- `RM.readDiscreteInputs` (R311). -/
def execRmReadDiscreteInputs (start count : Nat) (s : State) : Host.Outcome State Fault Refusal :=
  .next (s.rtuCall (readRequest .readDiscreteInputs s.params.maxReadBits start count))

/-- `readDiscreteInputs.rtu` (R311 with R301 to R309). -/
def execRtuReadDiscreteInputs (m : RtuMsg ReadReq) (s : State) : Host.Outcome State Fault Refusal :=
  .next (s.rtuWire .readDiscreteInputs (fun q => readRequest .readDiscreteInputs s.params.maxReadBits q.start.toNat q.count.toNat) m)

/-- `RM.readHoldingRegisters` (R312). -/
def execRmReadHoldingRegisters (start count : Nat) (s : State) : Host.Outcome State Fault Refusal :=
  .next (s.rtuCall (readRequest .readHoldingRegisters Config.maxReadRegs start count))

/-- `readHoldingRegisters.rtu` (R312 with R301 to R309). -/
def execRtuReadHoldingRegisters (m : RtuMsg ReadReq) (s : State) : Host.Outcome State Fault Refusal :=
  .next (s.rtuWire .readHoldingRegisters (fun q => readRequest .readHoldingRegisters Config.maxReadRegs q.start.toNat q.count.toNat) m)

/-- `RM.readInputRegisters` (R313). -/
def execRmReadInputRegisters (start count : Nat) (s : State) : Host.Outcome State Fault Refusal :=
  .next (s.rtuCall (readRequest .readInputRegisters Config.maxReadRegs start count))

/-- `readInputRegisters.rtu` (R313 with R301 to R309). -/
def execRtuReadInputRegisters (m : RtuMsg ReadReq) (s : State) : Host.Outcome State Fault Refusal :=
  .next (s.rtuWire .readInputRegisters (fun q => readRequest .readInputRegisters Config.maxReadRegs q.start.toNat q.count.toNat) m)

/-- `RM.writeSingleCoil` (R314). -/
def execRmWriteSingleCoil (addr : Nat) (on : Bool) (s : State) : Host.Outcome State Fault Refusal :=
  .next (s.rtuCall (coilRequest addr on))

/-- `writeSingleCoil.rtu` (R314 with R301 to R309). -/
def execRtuWriteSingleCoil (m : RtuMsg CoilReq) (s : State) : Host.Outcome State Fault Refusal :=
  .next (s.rtuWire .writeSingleCoil (fun q => coilRequest q.addr.toNat q.on) m)

/-- `RM.writeSingleRegister` (R315). -/
def execRmWriteSingleRegister (addr : Nat) (value : Word) (s : State) : Host.Outcome State Fault Refusal :=
  .next (s.rtuCall (registerRequest addr value))

/-- `writeSingleRegister.rtu` (R315 with R301 to R309). -/
def execRtuWriteSingleRegister (m : RtuMsg RegReq) (s : State) : Host.Outcome State Fault Refusal :=
  .next (s.rtuWire .writeSingleRegister (fun q => registerRequest q.addr.toNat q.value) m)

/-- `RM.writeMultipleCoils` (R316). -/
def execRmWriteMultipleCoils (start : Nat) (values : List Bool) (s : State) : Host.Outcome State Fault Refusal :=
  .next (s.rtuCall (coilsRequest start values))

/-- `writeMultipleCoils.rtu` (R316 with R301 to R309). -/
def execRtuWriteMultipleCoils (m : RtuMsg CoilsReq) (s : State) : Host.Outcome State Fault Refusal :=
  .next (s.rtuWire .writeMultipleCoils (fun q => coilsRequest q.start.toNat q.values) m)

/-- `RM.writeMultipleRegisters` (R317). -/
def execRmWriteMultipleRegisters (start : Nat) (values : List Word) (s : State) : Host.Outcome State Fault Refusal :=
  .next (s.rtuCall (registersRequest start values))

/-- `writeMultipleRegisters.rtu` (R317 with R301 to R309). -/
def execRtuWriteMultipleRegisters (m : RtuMsg RegsReq) (s : State) : Host.Outcome State Fault Refusal :=
  .next (s.rtuWire .writeMultipleRegisters (fun q => registersRequest q.start.toNat q.values) m)

end Sys2Proof.Machine
end

