-- ==== Sys2Proof/Machine/TcpMasterUnit.lean ====
section
/-! DEFINITION. The Modbus TCP master (45_masters.md R320 to R328): the transaction, the eight host operations, the eight
wire opcodes it encodes and decodes, `connect`, `disconnect`, the three events, and the exception response as either
master decodes it. -/
namespace Sys2Proof.Machine

/-- Refusal before sending (R321): a request is outstanding, the stream is not connected, or an argument is out of range. -/
def TcpMaster.refuses (m : TcpMaster) (q : Request) : Bool := !m.isIdle || !m.conn || !q.legal

/-- The transaction-id a request carries: the counter after its increment, modulo 65536 (R324). -/
def TcpMaster.nextTxn (m : TcpMaster) : Word := m.txn + 1#16

/-- The send step (R320, R321): the received stream is not cleared (90_conflicts.md C8). -/
def State.tcpSend (s : State) (q : Request) : State :=
  { s with
    tm := { s.tm with
      txn := s.tm.nextTxn
      txs := s.tm.txs ++ tcpFrame s.tm.nextTxn s.tm.unit q.fc.code q.data
      ctx := some
        { addr := s.tm.unit, txn := s.tm.nextTxn, fc := q.fc, req := q.params, issued := s.now,
          deadline := s.now + s.tm.timeoutMs, resp := [], lost := false }
      state := .awaitingResponse } }

/-- A request operation of the TCP master up to its suspension (R300, R321). -/
def State.tcpCall (s : State) (q : Request) : State :=
  if s.tm.refuses q then s.ret .tcpMaster (0x50#8 + q.fc.slot) q.fc.failure else s.tcpSend q

/-- `Finish(result)` on the TCP master (R309, R323): the bytes not consumed go back to the front of the stream.
A request that a wire row began returns a result too (DESIGN CHOICE, log 15). -/
def State.tcpFinish (s : State) (ctx : TransactionContext) (rest : List Byte) (outcome : RequestOutcome) :
    State :=
  ({ s with tm := { s.tm with ctx := none, state := .idle, rxs := rest ++ s.tm.rxs } }).ret .tcpMaster
    (0x50#8 + ctx.fc.slot) (resultOf ctx outcome)

/-- `Finish(Judge(ctx, fc, data))` on the TCP master (R307, R309, R323). -/
def State.tcpConclude (s : State) (ctx : TransactionContext) (rest : List Byte) (fc : Byte) (data : List Byte) : State :=
  let j := judge ctx fc data
  match j.exception with
  | some (fc', code) => (s.notify .tcpMaster (.modbusException fc' code)).tcpFinish ctx rest j.outcome
  | none => s.tcpFinish ctx rest j.outcome

/-- The stream's bytes taken into the response buffer, of which `rest` is not consumed (R323). -/
def State.tcpGather (s : State) (ctx : TransactionContext) (rest : List Byte) : State :=
  { s with tm := { s.tm with rxs := [], ctx := some { ctx with resp := rest } } }

/-- The deadline test of `TcpPoll` (R322, R323). -/
def State.tcpDeadline (s : State) (ctx : TransactionContext) (rest : List Byte) : State :=
  if ctx.deadline ≤ s.now then s.tcpFinish ctx rest (.failure .timeoutError) else s

/-- The function code and data of a frame that answers the outstanding request (43_frame_parser.md R243). After its connection
has ended none does, since the request fails at its deadline (R326, R328), also when the stream is connected again by then.
DESIGN CHOICE (log 18): a frame that would answer it is then one more mismatch. -/
def TransactionContext.accept (ctx : TransactionContext) (frame : List Byte) : Option (Byte × List Byte) :=
  if ctx.lost then none else mbapMatch frame ctx.txn ctx.addr

/-- The loop of R323 for the outstanding request. The frames it cuts that do not answer the request are consumed, whether or not
its connection has ended (43_frame_parser.md R243). -/
def TransactionContext.scan (ctx : TransactionContext) (buf : List Byte) : MbapScan :=
  mbapScanFuel ctx.accept buf.length buf

/-- `TcpPoll` (R323): frames that do not match are consumed and ignored; the first match finishes; the deadline is
tested last. -/
def execTmTcpPoll (s : State) : Host.Outcome State Fault Refusal :=
  .next <|
    match s.tm.pending with
    | none => s
    | some ctx =>
      let scan := ctx.scan (ctx.resp ++ s.tm.rxs)
      let s' := s.tcpGather ctx scan.rest
      match scan.found with
      | some (fc, data) => s'.tcpConclude ctx scan.rest fc data
      | none => s'.tcpDeadline ctx scan.rest

/-- A wire opcode of the TCP master. Its request form is the send step, taken under the same conditions as the host
operation's (R321). Its response form is one whole frame cut from the stream: judged when it matches the outstanding
request and its connection has not ended since (R243, R307, R326), otherwise consumed and ignored. -/
def State.tcpWire {Req : Type} (s : State) (fc : FunctionCode) (request : Req → Request) (m : TcpMsg Req) : State :=
  match m with
  | .request q => if s.tm.refuses (request q) then s else s.tcpSend (request q)
  | .response h data =>
    match s.tm.pending with
    | some ctx =>
      if ctx.lost = false ∧ headerMatches h.txn h.proto h.unit ctx.txn ctx.addr then s.tcpConclude ctx ctx.resp fc.code data
      else s
    | none => s

/-- An accepted exception response at the TCP master (R240, R244, R307); a request whose connection has ended takes none
(R326). -/
def State.tcpException (s : State) (fc code : Byte) : State :=
  match s.tm.pending with
  | some ctx => if ctx.lost then s else s.tcpConclude ctx ctx.resp (fc ||| 0x80#8) [code]
  | none => s

/-- `exceptionResponse.decode` (R307): the exception response to the outstanding request of either master. -/
def execExceptionResponseDecode (link : Link) (fc code : Byte) (s : State) : Host.Outcome State Fault Refusal :=
  .next <|
    match link with
    | .rtu => s.rtuException fc code
    | .tcp => s.tcpException fc code

/-- `connect()` (R325): the draw says whether the peer can be reached. `TM.RXS` is emptied; DESIGN CHOICE (log 18): the bytes an
outstanding request has gathered stay. -/
def execTmConnect (ok : Bool) (s : State) : Host.Outcome State Fault Refusal :=
  .next <|
    if s.tm.conn then s.ret .tcpMaster 0x58#8 (.bool true)
    else if ok then
      (({ s with tm := { s.tm with conn := true, rxs := [] } }).notify .tcpMaster .connected).ret .tcpMaster 0x58#8
        (.bool true)
    else (s.notify .tcpMaster (.error .connectionError)).ret .tcpMaster 0x58#8 (.bool false)

/-- The stream given up: the common part of `disconnect` (R326) and `TcpPeerClose` (R328). An outstanding request is lost: it
fails at its deadline. -/
def State.tcpDrop (s : State) : State :=
  { s with tm := { s.tm with conn := false, rxs := [], ctx := s.tm.ctx.map TransactionContext.lose } }

/-- `disconnect()` (R326). -/
def execTmDisconnect (s : State) : Host.Outcome State Fault Refusal :=
  .next <| State.ret (source := .tcpMaster) (index := 0x59#8) (result := .void) <|
    if s.tm.conn then s.tcpDrop.notify .tcpMaster .disconnected else s.tcpDrop

/-- `TcpRx(bs)` (R327). -/
def execTmTcpRx (bytes : List Byte) (s : State) : Host.Outcome State Fault Refusal :=
  .next (if s.tm.conn then { s with tm := { s.tm with rxs := s.tm.rxs ++ bytes } } else s)

/-- `TcpPeerClose` (R328). -/
def execTmTcpPeerClose (s : State) : Host.Outcome State Fault Refusal :=
  .next <|
    if s.tm.conn then (s.tcpDrop.notify .tcpMaster (.error .connectionError)).notify .tcpMaster .disconnected else s

/-- `TM.readCoils` (R310 with R320, R321). -/
def execTmReadCoils (start count : Nat) (s : State) : Host.Outcome State Fault Refusal :=
  .next (s.tcpCall (readRequest .readCoils s.params.maxReadBits start count))

/-- `readCoils.tcp` (R310 with R320 to R324). -/
def execTcpReadCoils (m : TcpMsg ReadReq) (s : State) : Host.Outcome State Fault Refusal :=
  .next (s.tcpWire .readCoils (fun q => readRequest .readCoils s.params.maxReadBits q.start.toNat q.count.toNat) m)

/-- `TM.readDiscreteInputs` (R311 with R320, R321). -/
def execTmReadDiscreteInputs (start count : Nat) (s : State) : Host.Outcome State Fault Refusal :=
  .next (s.tcpCall (readRequest .readDiscreteInputs s.params.maxReadBits start count))

/-- `readDiscreteInputs.tcp` (R311 with R320 to R324). -/
def execTcpReadDiscreteInputs (m : TcpMsg ReadReq) (s : State) : Host.Outcome State Fault Refusal :=
  .next (s.tcpWire .readDiscreteInputs (fun q => readRequest .readDiscreteInputs s.params.maxReadBits q.start.toNat q.count.toNat) m)

/-- `TM.readHoldingRegisters` (R312 with R320, R321). -/
def execTmReadHoldingRegisters (start count : Nat) (s : State) : Host.Outcome State Fault Refusal :=
  .next (s.tcpCall (readRequest .readHoldingRegisters Config.maxReadRegs start count))

/-- `readHoldingRegisters.tcp` (R312 with R320 to R324). -/
def execTcpReadHoldingRegisters (m : TcpMsg ReadReq) (s : State) : Host.Outcome State Fault Refusal :=
  .next (s.tcpWire .readHoldingRegisters (fun q => readRequest .readHoldingRegisters Config.maxReadRegs q.start.toNat q.count.toNat) m)

/-- `TM.readInputRegisters` (R313 with R320, R321). -/
def execTmReadInputRegisters (start count : Nat) (s : State) : Host.Outcome State Fault Refusal :=
  .next (s.tcpCall (readRequest .readInputRegisters Config.maxReadRegs start count))

/-- `readInputRegisters.tcp` (R313 with R320 to R324). -/
def execTcpReadInputRegisters (m : TcpMsg ReadReq) (s : State) : Host.Outcome State Fault Refusal :=
  .next (s.tcpWire .readInputRegisters (fun q => readRequest .readInputRegisters Config.maxReadRegs q.start.toNat q.count.toNat) m)

/-- `TM.writeSingleCoil` (R314 with R320, R321). -/
def execTmWriteSingleCoil (addr : Nat) (on : Bool) (s : State) : Host.Outcome State Fault Refusal :=
  .next (s.tcpCall (coilRequest addr on))

/-- `writeSingleCoil.tcp` (R314 with R320 to R324). -/
def execTcpWriteSingleCoil (m : TcpMsg CoilReq) (s : State) : Host.Outcome State Fault Refusal :=
  .next (s.tcpWire .writeSingleCoil (fun q => coilRequest q.addr.toNat q.on) m)

/-- `TM.writeSingleRegister` (R315 with R320, R321). -/
def execTmWriteSingleRegister (addr : Nat) (value : Word) (s : State) : Host.Outcome State Fault Refusal :=
  .next (s.tcpCall (registerRequest addr value))

/-- `writeSingleRegister.tcp` (R315 with R320 to R324). -/
def execTcpWriteSingleRegister (m : TcpMsg RegReq) (s : State) : Host.Outcome State Fault Refusal :=
  .next (s.tcpWire .writeSingleRegister (fun q => registerRequest q.addr.toNat q.value) m)

/-- `TM.writeMultipleCoils` (R316 with R320, R321). -/
def execTmWriteMultipleCoils (start : Nat) (values : List Bool) (s : State) : Host.Outcome State Fault Refusal :=
  .next (s.tcpCall (coilsRequest start values))

/-- `writeMultipleCoils.tcp` (R316 with R320 to R324). -/
def execTcpWriteMultipleCoils (m : TcpMsg CoilsReq) (s : State) : Host.Outcome State Fault Refusal :=
  .next (s.tcpWire .writeMultipleCoils (fun q => coilsRequest q.start.toNat q.values) m)

/-- `TM.writeMultipleRegisters` (R317 with R320, R321). -/
def execTmWriteMultipleRegisters (start : Nat) (values : List Word) (s : State) : Host.Outcome State Fault Refusal :=
  .next (s.tcpCall (registersRequest start values))

/-- `writeMultipleRegisters.tcp` (R317 with R320 to R324). -/
def execTcpWriteMultipleRegisters (m : TcpMsg RegsReq) (s : State) : Host.Outcome State Fault Refusal :=
  .next (s.tcpWire .writeMultipleRegisters (fun q => registersRequest q.start.toNat q.values) m)

end Sys2Proof.Machine
end

