-- ==== Sys2Proof/Machine/Time.lean ====
section
/-! DEFINITION. The clock (60_exceptions.md R368). -/
namespace Sys2Proof.Machine

/-- `Tick(dt)` (R368): no timer fires inside it. -/
def execTick (dt : Nat) (s : State) : Host.Outcome State Fault Refusal := .next { s with now := s.now + dt }

end Sys2Proof.Machine
end

