-- ==== Sys2Proof/Machine/Dispatch.lean ====
section
/-! DEFINITION. The dispatch: one arm per constructor of `Instr`, each a direct call of its meaning. -/
namespace Sys2Proof.Machine

/-- The meaning of an operation. -/
def exec (i : Instr) (s : State) : Host.Outcome State Fault Refusal :=
  match i with
  | .slvReadHoldingRegisters unit data => Sys2Proof.Machine.execSlvReadHoldingRegisters unit data s
  | .slvReadInputRegisters unit data => Sys2Proof.Machine.execSlvReadInputRegisters unit data s
  | .slvWriteSingleRegister unit data => Sys2Proof.Machine.execSlvWriteSingleRegister unit data s
  | .slvWriteMultipleRegisters unit data => Sys2Proof.Machine.execSlvWriteMultipleRegisters unit data s
  | .slvUnsupportedFunction unit fc data => Sys2Proof.Machine.execSlvUnsupportedFunction unit fc data s
  | .exceptionResponseBuild fc code => Sys2Proof.Machine.execExceptionResponseBuild fc code s
  | .rtuReadCoils m => Sys2Proof.Machine.execRtuReadCoils m s
  | .rtuReadDiscreteInputs m => Sys2Proof.Machine.execRtuReadDiscreteInputs m s
  | .rtuReadHoldingRegisters m => Sys2Proof.Machine.execRtuReadHoldingRegisters m s
  | .rtuReadInputRegisters m => Sys2Proof.Machine.execRtuReadInputRegisters m s
  | .rtuWriteSingleCoil m => Sys2Proof.Machine.execRtuWriteSingleCoil m s
  | .rtuWriteSingleRegister m => Sys2Proof.Machine.execRtuWriteSingleRegister m s
  | .rtuWriteMultipleCoils m => Sys2Proof.Machine.execRtuWriteMultipleCoils m s
  | .rtuWriteMultipleRegisters m => Sys2Proof.Machine.execRtuWriteMultipleRegisters m s
  | .tcpReadCoils m => Sys2Proof.Machine.execTcpReadCoils m s
  | .tcpReadDiscreteInputs m => Sys2Proof.Machine.execTcpReadDiscreteInputs m s
  | .tcpReadHoldingRegisters m => Sys2Proof.Machine.execTcpReadHoldingRegisters m s
  | .tcpReadInputRegisters m => Sys2Proof.Machine.execTcpReadInputRegisters m s
  | .tcpWriteSingleCoil m => Sys2Proof.Machine.execTcpWriteSingleCoil m s
  | .tcpWriteSingleRegister m => Sys2Proof.Machine.execTcpWriteSingleRegister m s
  | .tcpWriteMultipleCoils m => Sys2Proof.Machine.execTcpWriteMultipleCoils m s
  | .tcpWriteMultipleRegisters m => Sys2Proof.Machine.execTcpWriteMultipleRegisters m s
  | .exceptionResponseDecode link fc code => Sys2Proof.Machine.execExceptionResponseDecode link fc code s
  | .crcInit => Sys2Proof.Machine.execCrcInit s
  | .crcByte b => Sys2Proof.Machine.execCrcByte b s
  | .crcRead => Sys2Proof.Machine.execCrcRead s
  | .crc16 bytes => Sys2Proof.Machine.execCrc16 bytes s
  | .bsOpen c config draw => Sys2Proof.Machine.execBsOpen c config draw s
  | .bsClose c => Sys2Proof.Machine.execBsClose c s
  | .bsWrite c bytes => Sys2Proof.Machine.execBsWrite c bytes s
  | .bsReadAvailable c => Sys2Proof.Machine.execBsReadAvailable c s
  | .bsReadLine c => Sys2Proof.Machine.execBsReadLine c s
  | .bsBytesAvailable c => Sys2Proof.Machine.execBsBytesAvailable c s
  | .bsWaitReady c timeout => Sys2Proof.Machine.execBsWaitReady c timeout s
  | .canStart => Sys2Proof.Machine.execCanStart s
  | .canStop => Sys2Proof.Machine.execCanStop s
  | .canReadFrame => Sys2Proof.Machine.execCanReadFrame s
  | .canReadAllFrames => Sys2Proof.Machine.execCanReadAllFrames s
  | .canBufferedCount => Sys2Proof.Machine.execCanBufferedCount s
  | .canReceivedCount => Sys2Proof.Machine.execCanReceivedCount s
  | .canDroppedCount => Sys2Proof.Machine.execCanDroppedCount s
  | .slSetHoldingRegister addr value => Sys2Proof.Machine.execSlSetHoldingRegister addr value s
  | .slGetHoldingRegister addr => Sys2Proof.Machine.execSlGetHoldingRegister addr s
  | .slSetInputRegister addr value => Sys2Proof.Machine.execSlSetInputRegister addr value s
  | .slGetInputRegister addr => Sys2Proof.Machine.execSlGetInputRegister addr s
  | .rmReadCoils start count => Sys2Proof.Machine.execRmReadCoils start count s
  | .rmReadDiscreteInputs start count => Sys2Proof.Machine.execRmReadDiscreteInputs start count s
  | .rmReadHoldingRegisters start count => Sys2Proof.Machine.execRmReadHoldingRegisters start count s
  | .rmReadInputRegisters start count => Sys2Proof.Machine.execRmReadInputRegisters start count s
  | .rmWriteSingleCoil addr on => Sys2Proof.Machine.execRmWriteSingleCoil addr on s
  | .rmWriteSingleRegister addr value => Sys2Proof.Machine.execRmWriteSingleRegister addr value s
  | .rmWriteMultipleCoils start values => Sys2Proof.Machine.execRmWriteMultipleCoils start values s
  | .rmWriteMultipleRegisters start values => Sys2Proof.Machine.execRmWriteMultipleRegisters start values s
  | .tmReadCoils start count => Sys2Proof.Machine.execTmReadCoils start count s
  | .tmReadDiscreteInputs start count => Sys2Proof.Machine.execTmReadDiscreteInputs start count s
  | .tmReadHoldingRegisters start count => Sys2Proof.Machine.execTmReadHoldingRegisters start count s
  | .tmReadInputRegisters start count => Sys2Proof.Machine.execTmReadInputRegisters start count s
  | .tmWriteSingleCoil addr on => Sys2Proof.Machine.execTmWriteSingleCoil addr on s
  | .tmWriteSingleRegister addr value => Sys2Proof.Machine.execTmWriteSingleRegister addr value s
  | .tmWriteMultipleCoils start values => Sys2Proof.Machine.execTmWriteMultipleCoils start values s
  | .tmWriteMultipleRegisters start values => Sys2Proof.Machine.execTmWriteMultipleRegisters start values s
  | .tmConnect ok => Sys2Proof.Machine.execTmConnect ok s
  | .tmDisconnect => Sys2Proof.Machine.execTmDisconnect s
  | .tick dt => Sys2Proof.Machine.execTick dt s
  | .bsRxBytes c bytes => Sys2Proof.Machine.execBsRxBytes c bytes s
  | .bsTxDrain c k => Sys2Proof.Machine.execBsTxDrain c k s
  | .bsChanError c kind => Sys2Proof.Machine.execBsChanError c kind s
  | .canArrive f => Sys2Proof.Machine.execCanArrive f s
  | .canThreadStep => Sys2Proof.Machine.execCanThreadStep s
  | .canNormalDrain => Sys2Proof.Machine.execCanNormalDrain s
  | .slSlaveRx => Sys2Proof.Machine.execSlSlaveRx s
  | .slGapFire => Sys2Proof.Machine.execSlGapFire s
  | .rmMasterPoll => Sys2Proof.Machine.execRmMasterPoll s
  | .tmTcpRx bytes => Sys2Proof.Machine.execTmTcpRx bytes s
  | .tmTcpPoll => Sys2Proof.Machine.execTmTcpPoll s
  | .tmTcpPeerClose => Sys2Proof.Machine.execTmTcpPeerClose s

end Sys2Proof.Machine
end

