-- ==== Sys2Proof/Machine/Step.lean ====
section
/-! DEFINITION. One step (60_exceptions.md R373): the last step of a suspended call, where the inbox names one that is enabled
or one must come next, else the input at the head of the inbox (log 1, log 10). -/
namespace Sys2Proof.Machine

/-- The step the head of the inbox names. With no input nothing acts, so nothing changes; a last step that is not enabled is
no step and changes nothing (log 3). -/
def takeInput (s : State) : Host.Outcome State Fault Refusal :=
  match s.inbox with
  | [] => .next s
  | .configure w :: rest => .next (State.configure { s with inbox := rest } w)
  | .waitReturns _ :: rest => .next { s with inbox := rest }
  | .stopReturns _ :: rest => .next { s with inbox := rest }
  | .operation bytes :: rest =>
    match decode bytes with
    | .ok i => exec i { s with inbox := rest }
    | .error e => .refused (.notAnOperation e)

/-- One step. -/
def step (s : State) : Host.Outcome State Fault Refusal :=
  match s.chosenReturn with
  | some t => .next t
  | none =>
    match s.mustReturn with
    | some t => .next t
    | none => takeInput s

/-- `s` with the operation of a table word as the next input: the next step runs it, unless a suspended call takes that step
first (at reset none is suspended). -/
def State.withFetchWord (s : State) (nbits w : Nat) : State :=
  { s with inbox := .operation (tableWordBytes nbits w) :: s.inbox }

end Sys2Proof.Machine
end

