-- ==== Sys2Proof/Safety.lean ====
section
/-! DEFINITION. What counts as a safe state and a safe run, in the terms the statements use: the invariants the spec
states "after every step", and runs of several operations or steps. -/
namespace Sys2Proof.Machine

/-- The operations `is` one after another, each by its own meaning; it stops at the first that does not answer a next
state. -/
def execAll : List Instr → State → Host.Outcome State Fault Refusal
  | [], s => .next s
  | i :: is, s =>
    match exec i s with
    | .next t => execAll is t
    | .fault r => .fault r
    | .refused r => .refused r

/-- `n` steps. -/
def stepTimes : Nat → State → Host.Outcome State Fault Refusal
  | 0, s => .next s
  | n + 1, s =>
    match step s with
    | .next t => stepTimes n t
    | .fault r => .fault r
    | .refused r => .refused r

/-- A channel is as the spec says after every step: the ReadBuffer is within its cap (10_state.md R26), a channel that is
not open holds no bytes (41_bytestream.md R153, R169), and an open one was opened with a legal configuration (R152). -/
def Channel.ok (p : Params) (ch : Channel) : Prop :=
  ch.rb.length ≤ p.readCap ∧
  (ch.isOpen = false → ch.rb = [] ∧ ch.wq = []) ∧
  (ch.isOpen = true → legalSerialCfg ch.cfg = true)

/-- All three channels. -/
def State.channelsOk (s : State) : Prop := ∀ c : Chan, (s.chan c).ok s.params

/-- The CAN unit: both buffers within capacities of at least 1 (10_state.md R29, R30, R31); no more frames dropped than
received (R32); with the thread ended and no `stop` call still waiting for it the queue is empty (R31; log 20); a thread whose flag is cleared
has a `stop` call waiting for it (42_can.md R207), and one whose flag is set has none, so that forced termination meets only
a thread that was told to end (R208); no `stop` call has more than the join time ahead of it (R208). -/
def State.canOk (s : State) : Prop :=
  1 ≤ s.can.qcap ∧ 1 ≤ s.can.vcap ∧
  s.can.q.length ≤ s.can.qcap ∧ s.can.vbuf.length ≤ s.can.vcap ∧
  s.can.dropped ≤ s.can.received ∧
  (s.can.started = false → (∀ c ∈ s.stops, c.joined = true) → s.can.q = []) ∧
  (s.can.started = true → s.can.running = false → ∃ c ∈ s.stops, c.joined = false) ∧
  (s.can.started = true → s.can.running = true → ∀ c ∈ s.stops, c.joined = true) ∧
  (∀ c ∈ s.stops, c.deadline ≤ s.now + s.params.joinTimeoutMs)

/-- The slave: a legal address (10_state.md R35), the gap timer armed exactly while bytes are assembled and due at the
latest one gap from now (43_frame_parser.md R231, R232), both banks of one length (44_rtu_slave.md R262). -/
def State.slaveOk (s : State) : Prop :=
  legalUnit s.sl.addr.toNat = true ∧
  (s.sl.gapArmed = true ↔ s.sl.asm ≠ []) ∧
  (s.sl.gapArmed = true → s.sl.gapDeadline ≤ s.now + s.sl.gapMs) ∧
  s.sl.hr.length = s.sl.ir.length

/-- Both masters: a legal unit, a context exactly while a request is outstanding (10_state.md R43, R44), and the context's
fields as they were set when it was created (R45); a request outstanding without a connection has lost it (45_masters.md
R326, R328). -/
def State.mastersOk (s : State) : Prop :=
  legalUnit s.rm.unit.toNat = true ∧ legalUnit s.tm.unit.toNat = true ∧
  (s.rm.ctx = none ↔ s.rm.isIdle = true) ∧ (s.tm.ctx = none ↔ s.tm.isIdle = true) ∧
  (∀ ctx, s.rm.ctx = some ctx →
    ctx.addr = s.rm.unit ∧ ctx.txn = 0#16 ∧ ctx.issued ≤ s.now ∧ ctx.deadline = ctx.issued + s.rm.timeoutMs) ∧
  (∀ ctx, s.tm.ctx = some ctx →
    ctx.addr = s.tm.unit ∧ ctx.txn = s.tm.txn ∧ ctx.issued ≤ s.now ∧ ctx.deadline = ctx.issued + s.tm.timeoutMs) ∧
  (∀ ctx, s.tm.ctx = some ctx → s.tm.conn = false → ctx.lost = true)

/-- A safe state: all of the above. -/
def State.ok (s : State) : Prop :=
  s.channelsOk ∧ s.canOk ∧ s.slaveOk ∧ s.mastersOk

end Sys2Proof.Machine
end

