-- ==== Sys2Proof/Certificates/Slice0/Obligations.lean ====
section
/-! DEFINITION. The statements for the provers. A statement writes its next state out in terms of the rule it formalises;
`Claims` holds the few abbreviations it does so with. -/
open Sys2Proof Sys2Proof.Machine

namespace Sys2Proof.Claims

/-- `s` with these notifications and these results appended to its two traces, and nothing else changed. -/
def traced (s : State) (notes : List Notification) (results : List Return) : State :=
  { s with out := s.out ++ notes, returns := s.returns ++ results }

/-- The result of the host operation with this index (30_encoding.md R111). -/
def returned (source : Source) (index : Byte) (result : Result) : Return := ⟨source, .operation index, result⟩

/-- A channel with both buffers empty and this state. -/
def emptied (ch : Channel) (state : ChanState) : Channel := { ch with rb := [], wq := [], state := state }

/-- The legal serial configurations, in the words of 41_bytestream.md R152. -/
def serialLegal (c : SerialCfg) : Prop :=
  (c.dataBits = 5 ∨ c.dataBits = 6 ∨ c.dataBits = 7 ∨ c.dataBits = 8) ∧
  (c.parity = .none ∨ c.parity = .even ∨ c.parity = .odd) ∧ (c.stopBits = 1 ∨ c.stopBits = 2) ∧ c.baud ≠ 0

/-- Bytes followed by their CRC, low byte first (20_memory.md R60). -/
def withCrc (body : List Byte) : List Byte := body ++ [lo8 (crc16 body), hi8 (crc16 body)]

/-- `s` after the slave has queued `body` and its CRC: on an open channel only (44_rtu_slave.md R270). -/
def slaveSent (s : State) (body : List Byte) : State :=
  { s with sl := { s.sl with bs := { s.sl.bs with
      wq := if s.sl.bs.state = .opened then s.sl.bs.wq ++ withCrc body else s.sl.bs.wq } } }

/-- `s` after the slave has raised an exception (44_rtu_slave.md R272); the notification carries the function code with bit 7
clear (60_exceptions.md R347; log 16). -/
def slaveRaised (s : State) (unit fc code : Byte) : State :=
  slaveSent (traced s [⟨.slave, .modbusException (fc &&& 0x7F#8) code⟩] []) [unit, fc ||| 0x80#8, code]

/-- The two bytes of a 16-bit field, high byte first (30_encoding.md R97). -/
def two (n : Nat) : List Byte := [hi8 (BitVec.ofNat 16 n), lo8 (BitVec.ofNat 16 n)]

/-- The bytes of a register run, each register high byte first (30_encoding.md R100). -/
def registerBytes (vs : List Word) : List Byte := vs.flatMap fun v => [hi8 v, lo8 v]

/-- `s` after the RTU master has sent a request (45_masters.md R301, R303). -/
def rtuSent (s : State) (fc : FunctionCode) (code : Byte) (data : List Byte) (first second : Nat) : State :=
  { s with rm := { s.rm with
      bs := { s.rm.bs with rb := [], wq := s.rm.bs.wq ++ withCrc (s.rm.unit :: code :: data) }
      ctx := some
        { addr := s.rm.unit, txn := 0#16, fc := fc, req := ⟨BitVec.ofNat 16 first, BitVec.ofNat 16 second⟩,
          issued := s.now, deadline := s.now + s.rm.timeoutMs, resp := [], lost := false }
      state := .awaitingResponse } }

/-- `s` after the TCP master has sent a request (45_masters.md R320, R321, R324). -/
def tcpSent (s : State) (fc : FunctionCode) (code : Byte) (data : List Byte) (first second : Nat) : State :=
  { s with tm := { s.tm with
      txn := BitVec.ofNat 16 (s.tm.txn.toNat + 1)
      txs := s.tm.txs ++ (two (s.tm.txn.toNat + 1) ++ [0x00#8, 0x00#8] ++ two (data.length + 2) ++ [s.tm.unit, code] ++ data)
      ctx := some
        { addr := s.tm.unit, txn := BitVec.ofNat 16 (s.tm.txn.toNat + 1), fc := fc,
          req := ⟨BitVec.ofNat 16 first, BitVec.ofNat 16 second⟩,
          issued := s.now, deadline := s.now + s.tm.timeoutMs, resp := [], lost := false }
      state := .awaitingResponse } }

/-- The RTU master may send: idle, on an open channel (45_masters.md R302). -/
def rtuReady (s : State) : Prop := s.rm.state = .idle ∧ s.rm.bs.state = .opened

/-- The TCP master may send: idle and connected (45_masters.md R321). -/
def tcpReady (s : State) : Prop := s.tm.state = .idle ∧ s.tm.conn = true

/-- `s` after the RTU master's outstanding request has ended with `result` (45_masters.md R309). -/
def rtuEnded (s : State) (ctx : TransactionContext) (result : Result) : State :=
  traced { s with rm := { s.rm with ctx := none, state := .idle } } []
    [returned .rtuMaster (0x40#8 + ctx.fc.slot) result]

/-- `s` after the TCP master's outstanding request has ended with `result`; `rest` goes back to the stream
(45_masters.md R309, R323). -/
def tcpEnded (s : State) (ctx : TransactionContext) (rest : List Byte) (result : Result) : State :=
  traced { s with tm := { s.tm with ctx := none, state := .idle, rxs := rest ++ s.tm.rxs } } []
    [returned .tcpMaster (0x50#8 + ctx.fc.slot) result]

/-- A context whose channel or connection has failed (41_bytestream.md R169; 45_masters.md R326, R328). -/
def lostContext (ctx : Option TransactionContext) : Option TransactionContext := ctx.map fun c => { c with lost := true }

/-- `s` with the outstanding request of the RTU master lost, when `c` is the channel that master owns. -/
def requestLost (s : State) (c : Chan) : State :=
  if c = .master then { s with rm := { s.rm with ctx := lostContext s.rm.ctx } } else s

/-- The answer to a coil or discrete-input read (45_masters.md R308, first row). -/
def coilAnswer (count : Nat) (data : List Byte) : Result :=
  if data.length = 1 + (count + 7) / 8 ∧ (data.getD 0 0#8).toNat = (count + 7) / 8 then
    .bools ((List.range count).map fun i => (data.getD (1 + i / 8) 0#8).getLsbD (i % 8))
  else .bools []

/-- The answer to a register read (45_masters.md R308, second row). -/
def registerAnswer (count : Nat) (data : List Byte) : Result :=
  if data.length = 1 + 2 * count ∧ (data.getD 0 0#8).toNat = 2 * count then
    .words ((List.range count).map fun i => be16 (data.getD (1 + 2 * i) 0#8) (data.getD (2 + 2 * i) 0#8))
  else .words []

/-- The answer to a write (45_masters.md R308, third and fourth rows): true for the echo of the first four request bytes. -/
def echoAnswer (first second : Word) (data : List Byte) : Result :=
  .bool (decide (data = [hi8 first, lo8 first, hi8 second, lo8 second]))

/-- The answer a normal response with function code `fc` gives the request `ctx` (45_masters.md R307, R308): another
function code is a failure. -/
def answer (ctx : TransactionContext) (fc : FunctionCode) (data : List Byte) : Result :=
  if fc = ctx.fc then
    match fc with
    | .readCoils => coilAnswer ctx.req.second.toNat data
    | .readDiscreteInputs => coilAnswer ctx.req.second.toNat data
    | .readHoldingRegisters => registerAnswer ctx.req.second.toNat data
    | .readInputRegisters => registerAnswer ctx.req.second.toNat data
    | .writeSingleCoil => echoAnswer ctx.req.first ctx.req.second data
    | .writeSingleRegister => echoAnswer ctx.req.first ctx.req.second data
    | .writeMultipleCoils => echoAnswer ctx.req.first ctx.req.second data
    | .writeMultipleRegisters => echoAnswer ctx.req.first ctx.req.second data
  else ctx.fc.failure

/-- The value of a configuration write lies in its legal set (10_state.md R46). -/
def settingLegal : ConfigWrite → Prop
  | .canBitrate v => 1 ≤ v
  | .canQcap v => 1 ≤ v
  | .canVcap v => 1 ≤ v
  | .canPrio _ => True
  | .slAddr v => 1 ≤ v ∧ v ≤ 247
  | .slGapMs v => 1 ≤ v
  | .rmUnit v => 1 ≤ v ∧ v ≤ 247
  | .rmTimeoutMs v => 1 ≤ v
  | .tmUnit v => 1 ≤ v ∧ v ≤ 247
  | .tmTimeoutMs v => 1 ≤ v

/-- The unit a configuration write is for is inactive (70_reset_and_hazards.md R392). -/
def unitInactive (s : State) : ConfigWrite → Prop
  | .canBitrate _ => s.can.thread = .stopped
  | .canQcap v => s.can.thread = .stopped ∧ s.can.q.length ≤ v
  | .canVcap v => s.can.thread = .stopped ∧ s.can.vbuf.length ≤ v
  | .canPrio _ => s.can.thread = .stopped
  | .slAddr _ => s.sl.bs.state ≠ .opened ∧ s.sl.asm = []
  | .slGapMs _ => s.sl.bs.state ≠ .opened ∧ s.sl.asm = []
  | .rmUnit _ => s.rm.state = .idle
  | .rmTimeoutMs _ => s.rm.state = .idle
  | .tmUnit _ => s.tm.state = .idle
  | .tmTimeoutMs _ => s.tm.state = .idle

/-- `s` with the field written. -/
def settingWritten (s : State) : ConfigWrite → State
  | .canBitrate v => { s with can := { s.can with bitrate := v } }
  | .canQcap v => { s with can := { s.can with qcap := v } }
  | .canVcap v => { s with can := { s.can with vcap := v } }
  | .canPrio v => { s with can := { s.can with prio := v } }
  | .slAddr v => { s with sl := { s.sl with addr := BitVec.ofNat 8 v } }
  | .slGapMs v => { s with sl := { s.sl with gapMs := v } }
  | .rmUnit v => { s with rm := { s.rm with unit := BitVec.ofNat 8 v } }
  | .rmTimeoutMs v => { s with rm := { s.rm with timeoutMs := v } }
  | .tmUnit v => { s with tm := { s.tm with unit := BitVec.ofNat 8 v } }
  | .tmTimeoutMs v => { s with tm := { s.tm with timeoutMs := v } }

/-- The conditions of a suspended `waitReady` call in the order of 41_bytestream.md R167: its result once one holds. -/
def waitResult (s : State) (w : Wait) : Option Bool :=
  if (s.chan w.chan).state ≠ .opened then some false
  else if 0 < (s.chan w.chan).rb.length then some true
  else if w.deadline ≤ s.now then some false else none

/-- No suspended call must take the next step: no `waitReady` is due (R167) and no join time is up (42_can.md R208). -/
def noCallDue (s : State) : Prop := (∀ w ∈ s.waits, waitResult s w = none) ∧ ∀ c ∈ s.stops, s.now < c.deadline

/-- The wait of a suspended `stop` call is over (R207): the thread it waits for has ended, or its join time is up. -/
def stopDone (s : State) (c : StopCall) : Prop := c.joined = true ∨ s.can.thread = .stopped ∨ c.deadline ≤ s.now

/-- `s` after the last step of the `stop` call `c` (R207); `rest` are the calls still suspended. A path that `start` created
after the thread `c` waits for had ended is left as it is (R208, 10_state.md R32; log 10). -/
def stopEnded (s : State) (c : StopCall) (rest : List StopCall) : State :=
  traced { s with can := if c.joined then s.can else { s.can with thread := .stopped, q := [] }, stops := rest } []
    [returned .can 0x21#8 .void]

/-- The head of the inbox names the last step of a suspended call. -/
def namesLastStep (s : State) : Prop :=
  ∃ (k : Nat) (rest : List Input), s.inbox = .waitReturns k :: rest ∨ s.inbox = .stopReturns k :: rest

/-- The head of the inbox names the last step of a suspended call, and that step is enabled. -/
def choosesLastStep (s : State) : Prop :=
  ∃ (k : Nat) (rest : List Input),
    (s.inbox = .waitReturns k :: rest ∧ ∃ w, s.waits[k]? = some w ∧ waitResult s w ≠ none) ∨
    (s.inbox = .stopReturns k :: rest ∧ ∃ c, s.stops[k]? = some c ∧ stopDone s c)

/-- The operations of a Byte-Stream Channel that may change channel `c`. -/
def onChannel (c : Chan) (i : Instr) : Prop :=
  (∃ config draw, i = .bsOpen c config draw) ∨ i = .bsClose c ∨ (∃ bytes, i = .bsWrite c bytes) ∨ i = .bsReadAvailable c ∨
  i = .bsReadLine c ∨ (∃ bytes, i = .bsRxBytes c bytes) ∨ (∃ k, i = .bsTxDrain c k) ∨ ∃ kind, i = .bsChanError c kind

/-- Whether a notification is a `bufferOverflow`. -/
def isOverflow (n : Notification) : Bool :=
  match n.notice with
  | .bufferOverflow _ => true
  | _ => false

/-- How many CAN frames a result hands to the host. -/
def framesGiven (r : Return) : Nat :=
  match r.result with
  | .frameOrNone (some _) => 1
  | .frames fs => fs.length
  | _ => 0

end Sys2Proof.Claims

open Sys2Proof.Claims

/-! ### Decoding -/

/-- decode and encode agree on every well-formed operation, with every operand at every value, and zero bytes may follow
the record. The record is the model's own packing (log 2) of the operations of R94, R95, R111 and R112. -/
def Obligations.DecodeInvertsEncode : Prop :=
  ∀ (i : Instr) (n : Nat), i.wf = true → decode (encode i ++ List.replicate n 0#8) = .ok i

/-- The wire decoder of the slave and format RTU agree in both directions (R90, R98): a frame sealed with its CRC decodes to
the operation of its function code, and a frame that decodes is exactly the encoding of what it decodes to. -/
def Obligations.SlaveWireCodecAgrees : Prop :=
  (∀ (unit fc : Byte) (data : List Byte),
    slaveDecode (withCrc (unit :: fc :: data)) = some
      (if fc = 0x03#8 then .slvReadHoldingRegisters unit data
      else if fc = 0x04#8 then .slvReadInputRegisters unit data
      else if fc = 0x06#8 then .slvWriteSingleRegister unit data
      else if fc = 0x10#8 then .slvWriteMultipleRegisters unit data
      else .slvUnsupportedFunction unit fc data)) ∧
  (∀ (frame : List Byte) (i : Instr), slaveDecode frame = some i → i.wf = true ∧ slaveEncode i = some frame)

/-- Words written out decode to the operations they stand for: records that begin with the indexes of R111 and R112 (their
space byte and operands, and the refusal of an unassigned index, are the model's own packing, log 2), and frames of
44_rtu_slave.md R265 to R269 with their CRC. -/
def Obligations.KnownWordsDecode : Prop :=
  decode [0x00#8, 0x00#8] = .ok .crcInit ∧
  decode [0x31#8, 0x00#8, 0x05#8] = .ok (.slGetHoldingRegister 5) ∧
  decode [0x42#8, 0x00#8, 0x00#8, 0x0A#8] = .ok (.rmReadHoldingRegisters 0 10) ∧
  decode [0x88#8, 0x00#8] = .ok .slGapFire ∧
  decode [0x17#8, 0x00#8] = .error .unassignedOpcode ∧
  slaveDecode [0x01#8, 0x03#8, 0x00#8, 0x00#8, 0x00#8, 0x02#8, 0xC4#8, 0x0B#8] =
    some (.slvReadHoldingRegisters 0x01#8 [0x00#8, 0x00#8, 0x00#8, 0x02#8]) ∧
  slaveDecode [0x01#8, 0x06#8, 0x00#8, 0x00#8, 0x04#8, 0xD2#8, 0x0B#8, 0x57#8] =
    some (.slvWriteSingleRegister 0x01#8 [0x00#8, 0x00#8, 0x04#8, 0xD2#8]) ∧
  slaveDecode [0x01#8, 0x07#8, 0x41#8, 0xE2#8] = some (.slvUnsupportedFunction 0x01#8 0x07#8 []) ∧
  slaveDecode [0x01#8, 0x06#8, 0x00#8, 0x00#8, 0x04#8, 0xD3#8, 0x0B#8, 0x57#8] = none

/-! ### The step -/

/-- When no suspended call must take the next step, a step takes the input at the head of the inbox: an encoded operation is
decoded and executed, a configuration write is applied, and with no input nothing changes (log 1, log 10). -/
def Obligations.StepRunsTheDecodedOperation : Prop :=
  ∀ s : State, noCallDue s →
    (∀ (bytes : List Byte) (rest : List Input) (i : Instr),
      s.inbox = .operation bytes :: rest → decode bytes = .ok i → step s = exec i { s with inbox := rest }) ∧
    (∀ (w : ConfigWrite) (rest : List Input),
      s.inbox = .configure w :: rest → step s = .next (State.configure { s with inbox := rest } w)) ∧
    (s.inbox = [] → step s = .next s)

/-- R346: no step faults, and a step refuses only a record that encodes no operation; every operation of `Instr`, well
formed or not, in every state, answers a next state. -/
def Obligations.NothingStopsTheBlock : Prop :=
  (∀ (i : Instr) (s : State), ∃ t, exec i s = .next t) ∧
  (∀ (s : State) (f : Fault), step s ≠ .fault f) ∧
  (∀ (s : State) (r : Refusal), step s = .refused r →
    ∃ (bytes : List Byte) (rest : List Input) (e : DecodeError),
      s.inbox = .operation bytes :: rest ∧ decode bytes = .error e ∧ r = .notAnOperation e)

/-- R167, R207, R208, R373: the last step of a suspended call is a step of its own, and the input may choose any that is
enabled: of a `waitReady` that is due, of a `stop` whose thread has ended or whose join time is up. When it chooses none, a due
`waitReady` takes the next step, oldest first, and then a `stop` whose join time is up (the model's order where the inputs
give none, log 10). A chosen last step that is not enabled changes nothing (log 3). The thread ends only with its flag
cleared: by its own step, or by force at the join time of a `stop` that waits for it. -/
def Obligations.SuspendedCallsReturnInStepsOfTheirOwn : Prop :=
  (∀ (s : State) (before after : List Wait) (w : Wait) (b : Bool) (rest : List Input),
    s.inbox = .waitReturns before.length :: rest → s.waits = before ++ w :: after → waitResult s w = some b →
    step s = .next
      (traced { s with inbox := rest, waits := before ++ after } [] [returned (.chan w.chan) 0x16#8 (.bool b)])) ∧
  (∀ (s : State) (before after : List StopCall) (c : StopCall) (rest : List Input),
    s.inbox = .stopReturns before.length :: rest → s.stops = before ++ c :: after → stopDone s c →
    step s = .next (stopEnded { s with inbox := rest } c (before ++ after))) ∧
  (∀ (s : State) (before after : List Wait) (w : Wait) (b : Bool), ¬ choosesLastStep s → s.waits = before ++ w :: after →
    (∀ x ∈ before, waitResult s x = none) → waitResult s w = some b →
    step s = .next (traced { s with waits := before ++ after } [] [returned (.chan w.chan) 0x16#8 (.bool b)])) ∧
  (∀ (s : State) (before after : List StopCall) (c : StopCall), ¬ choosesLastStep s →
    (∀ w ∈ s.waits, waitResult s w = none) → s.stops = before ++ c :: after → (∀ x ∈ before, s.now < x.deadline) →
    c.deadline ≤ s.now → step s = .next (stopEnded s c (before ++ after))) ∧
  (∀ s : State, noCallDue s → namesLastStep s → ¬ choosesLastStep s → step s = .next { s with inbox := s.inbox.tail }) ∧
  (∀ s t : State, s.canOk → step s = .next t → s.can.thread ≠ .stopped → t.can.thread = .stopped →
    s.can.running = false ∧
    ((∃ (bytes : List Byte) (rest : List Input), s.inbox = .operation bytes :: rest ∧ decode bytes = .ok .canThreadStep) ∨
      ∃ c ∈ s.stops, c.joined = false ∧ c.deadline ≤ s.now))

/-! ### The CRC16 unit -/

/-- R131 to R134: the four operations of the CRC16 unit, with the eight rounds written out as an iteration. -/
def Obligations.CrcUnitOperations : Prop :=
  ∀ (s : State) (b : Byte) (bytes : List Byte),
    let round (acc : Word) : Word := if acc.getLsbD 0 then (acc >>> 1) ^^^ 0xA001#16 else acc >>> 1
    exec .crcInit s = .next (traced { s with crcAcc := 0xFFFF#16 } [] [returned .crc 0x00#8 .void]) ∧
    exec (.crcByte b) s = .next
      (traced { s with crcAcc := round^[8] (s.crcAcc ^^^ b.setWidth 16) } [] [returned .crc 0x01#8 .void]) ∧
    exec .crcRead s = .next (traced s [] [returned .crc 0x02#8 (.u16 s.crcAcc)]) ∧
    exec (.crc16 bytes) s = .next
      (traced s [] [returned .crc 0x03#8
        (.u16 (bytes.foldl (fun acc b => round^[8] (acc ^^^ b.setWidth 16)) 0xFFFF#16))])

/-- R135: the streaming sequence returns `crc16(bs)`, and a computation can be continued over a second sequence. -/
def Obligations.CrcStreamingAgreesWithFunction : Prop :=
  (∀ (bytes : List Byte) (s : State),
    execAll (.crcInit :: (bytes.map .crcByte ++ [.crcRead])) s = .next
      (traced { s with crcAcc := crc16 bytes } []
        (returned .crc 0x00#8 .void :: (List.replicate bytes.length (returned .crc 0x01#8 .void) ++
          [returned .crc 0x02#8 (.u16 (crc16 bytes))])))) ∧
  (∀ (a b : List Byte) (s t : State), s.crcAcc = crc16 a → execAll (b.map .crcByte) s = .next t →
    t.crcAcc = crc16 (a ++ b))

/-- R136: each round and the byte step are bijections of the 16-bit accumulator, and bit 15 after a round tells whether the
exclusive or was applied. -/
def Obligations.CrcStepIsABijection : Prop :=
  (∀ acc : Word, (crcRound acc).getLsbD 15 = acc.getLsbD 0) ∧ Function.Bijective crcRound ∧
  (∀ b : Byte, Function.Bijective fun acc => crcUpdate acc b)

/-- R137, R139: the residue of a sealed sequence is 0, the high byte first does not give 0 in general, a trailer matches
exactly when the residue of the whole is 0, and a sealed frame changed in any single bit has a residue that is not 0. -/
def Obligations.CrcResidueDetectsErrors : Prop :=
  (∀ bytes : List Byte, crc16 (bytes ++ [lo8 (crc16 bytes), hi8 (crc16 bytes)]) = 0x0000#16) ∧
  crc16 [0x01#8, 0x03#8, 0x00#8, 0x00#8, 0x00#8, 0x0A#8, 0xCD#8, 0xC5#8] = 0x0606#16 ∧
  (∀ frame : List Byte, 2 ≤ frame.length →
    ((crc16 (frame.take (frame.length - 2))).toNat =
        (frame.getD (frame.length - 2) 0#8).toNat + 256 * (frame.getD (frame.length - 1) 0#8).toNat ↔
      crc16 frame = 0x0000#16)) ∧
  (∀ (body : List Byte) (i k : Nat), i < (withCrc body).length → k < 8 →
    crc16 ((withCrc body).set i ((withCrc body).getD i 0#8 ^^^ (1#8 <<< k))) ≠ 0x0000#16) ∧
  crc16 [0x01#8, 0x06#8, 0x00#8, 0x00#8, 0x04#8, 0xD2#8, 0x0B#8, 0x57#8] = 0x0000#16 ∧
  crc16 [0x01#8, 0x06#8, 0x00#8, 0x00#8, 0x04#8, 0xD3#8, 0x0B#8, 0x57#8] = 0xC051#16

/-- R138: the bit-serial form and the table form give the same value as the function, for every accumulator and byte; the
listed table entries; and 0xA001 is 0x8005 with its bits reversed. -/
def Obligations.CrcEquivalentForms : Prop :=
  (∀ (acc : Word) (b : Byte),
    (List.range 8).foldl (fun (acc : Word) (i : Nat) =>
      if acc.getLsbD 0 ^^ b.getLsbD i then (acc >>> 1) ^^^ 0xA001#16 else acc >>> 1) acc = crcUpdate acc b) ∧
  (∀ (acc : Word) (b : Byte),
    crcUpdate acc b = (acc >>> 8) ^^^ crcRounds 8 ((acc ^^^ b.setWidth 16) &&& 0x00FF#16)) ∧
  crcRounds 8 0#16 = 0x0000#16 ∧ crcRounds 8 1#16 = 0xC0C1#16 ∧ crcRounds 8 2#16 = 0xC181#16 ∧
  crcRounds 8 255#16 = 0x4040#16 ∧ (0xA001#16).reverse = 0x8005#16

/-! ### The Byte-Stream Channel -/

/-- R152, R153: the four outcomes of `open`; `close` empties both buffers, notifies only when the channel was open, and
keeps `BS.TX` and `BS.CFG`. -/
def Obligations.OpenAndCloseOutcomes : Prop :=
  ∀ (s : State) (c : Chan) (config : SerialCfg) (draw : OpenDraw),
    let ch := s.chan c
    let answers (b : Bool) := [returned (.chan c) 0x10#8 (.bool b)]
    let fails (kind : ErrorKind) : State :=
      traced (s.setChan c { ch with state := .errored }) [⟨.chan c, .error kind⟩] (answers false)
    let shut := s.setChan c (emptied ch .closed)
    (ch.state = .opened → exec (.bsOpen c config draw) s = .next (traced s [] (answers false))) ∧
    (ch.state ≠ .opened → ¬ serialLegal config →
      exec (.bsOpen c config draw) s =
        .next (traced s [⟨.chan c, .error .configurationError⟩] (answers false))) ∧
    (ch.state ≠ .opened → serialLegal config →
      (draw = .ok → exec (.bsOpen c config draw) s = .next
        (traced (s.setChan c { emptied ch .opened with cfg := config }) [⟨.chan c, .connected⟩] (answers true))) ∧
      (draw = .deviceNotFound → exec (.bsOpen c config draw) s = .next (fails .deviceNotFound)) ∧
      (draw = .permission → exec (.bsOpen c config draw) s = .next (fails .permission)) ∧
      (draw = .openFailure → exec (.bsOpen c config draw) s = .next (fails .openFailure))) ∧
    (ch.state = .opened → exec (.bsClose c) s =
      .next (traced shut [⟨.chan c, .disconnected⟩] [returned (.chan c) 0x11#8 .void])) ∧
    (ch.state ≠ .opened → exec (.bsClose c) s = .next (traced shut [] [returned (.chan c) 0x11#8 .void]))

/-- R160, R164 to R166 on an open channel: `write` appends and returns the number of bytes it queued; `readAvailable` returns
and removes everything; `bytesAvailable` counts and changes nothing; `readLine` returns the bytes up to and including the
first terminator, and nothing while there is none. -/
def Obligations.HostMovesBytes : Prop :=
  ∀ (s : State) (c : Chan) (bytes line rest : List Byte), (s.chan c).state = .opened → s.params.lineTerm ∉ line →
    exec (.bsWrite c bytes) s = .next
      (traced (s.setChan c { s.chan c with wq := (s.chan c).wq ++ bytes }) []
        [returned (.chan c) 0x12#8 (.count bytes.length)]) ∧
    exec (.bsReadAvailable c) s = .next
      (traced (s.setChan c { s.chan c with rb := [] }) [] [returned (.chan c) 0x13#8 (.bytes (s.chan c).rb)]) ∧
    exec (.bsBytesAvailable c) s = .next
      (traced s [] [returned (.chan c) 0x15#8 (.count (s.chan c).rb.length)]) ∧
    ((s.chan c).rb = line ++ s.params.lineTerm :: rest → exec (.bsReadLine c) s = .next
      (traced (s.setChan c { s.chan c with rb := rest }) []
        [returned (.chan c) 0x14#8 (.bytes (line ++ [s.params.lineTerm]))])) ∧
    ((s.chan c).rb = line → exec (.bsReadLine c) s = .next (traced s [] [returned (.chan c) 0x14#8 (.bytes [])]))

/-- R167 at the call: the conditions in their order; otherwise the call is suspended with the deadline `t0 + timeout`
and nothing else changes. (When a suspended call returns is SuspendedCallsReturnInStepsOfTheirOwn; the list of suspended calls is the model's own,
log 10.) -/
def Obligations.WaitReadyAtTheCall : Prop :=
  ∀ (s : State) (c : Chan) (timeout : Nat),
    let answers (b : Bool) : State := traced s [] [returned (.chan c) 0x16#8 (.bool b)]
    ((s.chan c).state ≠ .opened → exec (.bsWaitReady c timeout) s = .next (answers false)) ∧
    ((s.chan c).state = .opened → (s.chan c).rb ≠ [] → exec (.bsWaitReady c timeout) s = .next (answers true)) ∧
    ((s.chan c).state = .opened → (s.chan c).rb = [] → timeout = 0 →
      exec (.bsWaitReady c timeout) s = .next (answers false)) ∧
    ((s.chan c).state = .opened → (s.chan c).rb = [] → 0 < timeout →
      exec (.bsWaitReady c timeout) s = .next { s with waits := s.waits ++ [⟨c, s.now + timeout⟩] })

/-- R157, R158: an arrival is appended; when the buffer then exceeds its cap, the most recent half of the cap is kept and
the warning carries the number of bytes discarded. -/
def Obligations.ArrivalsAppendOrEvict : Prop :=
  ∀ (s : State) (c : Chan) (bytes : List Byte), (s.chan c).state = .opened →
    let all := (s.chan c).rb ++ bytes
    let keep := s.params.readCap / 2
    (all.length ≤ s.params.readCap → exec (.bsRxBytes c bytes) s = .next
      (traced (s.setChan c { s.chan c with rb := all }) [⟨.chan c, .dataReceived bytes.length⟩] [])) ∧
    (s.params.readCap < all.length → ∃ lost kept : List Byte, all = lost ++ kept ∧ kept.length = keep ∧
      exec (.bsRxBytes c bytes) s = .next
        (traced (s.setChan c { s.chan c with rb := kept })
          [⟨.chan c, .readBufferWarning lost.length⟩, ⟨.chan c, .dataReceived bytes.length⟩] []))

/-- R162, R169: the line takes the first `k` bytes of the chunk offered; a device error empties both buffers of an open
channel, moves it to `Error` and raises two notifications. A `k` outside the range of R162 is no step, and changes nothing
(log 3). The request outstanding on the RTU master's channel is lost: it fails at its deadline (MasterPollTurn). That the bytes
in its context stay is the model's choice (log 19). -/
def Obligations.TheLineTakesBytesOrFails : Prop :=
  ∀ (s : State) (c : Chan) (k : Nat),
    let enabled := (s.chan c).state = .opened ∧ 1 ≤ k ∧ k ≤ s.params.writeChunk ∧ k ≤ (s.chan c).wq.length
    let fails (kind : ErrorKind) : State :=
      traced (requestLost (s.setChan c (emptied (s.chan c) .errored)) c) [⟨.chan c, .error kind⟩, ⟨.chan c, .disconnected⟩] []
    (enabled → ∃ sent queued : List Byte, (s.chan c).wq = sent ++ queued ∧ sent.length = k ∧
      exec (.bsTxDrain c k) s = .next (s.setChan c { s.chan c with tx := (s.chan c).tx ++ sent, wq := queued })) ∧
    (¬ enabled → exec (.bsTxDrain c k) s = .next s) ∧
    ((s.chan c).state = .opened →
      exec (.bsChanError c .readError) s = .next (fails .readError) ∧
      exec (.bsChanError c .writeError) s = .next (fails .writeError) ∧
      exec (.bsChanError c .resourceGone) s = .next (fails .resourceGone) ∧
      exec (.bsChanError c .timeout) s = .next (fails .timeout))

/-- R151: a channel that is not open. (`open` and `close`, which are allowed, are
OpenAndCloseOutcomes.) -/
def Obligations.ChannelThatIsNotOpen : Prop :=
  ∀ (s : State) (c : Chan) (bytes : List Byte) (timeout k : Nat) (kind : DeviceError), (s.chan c).state ≠ .opened →
    let answers (index : Byte) (r : Result) : State := traced s [] [returned (.chan c) index r]
    exec (.bsWrite c bytes) s = .next (answers 0x12#8 (.count 0)) ∧
    exec (.bsReadAvailable c) s = .next (answers 0x13#8 (.bytes [])) ∧
    exec (.bsReadLine c) s = .next (answers 0x14#8 (.bytes [])) ∧
    exec (.bsBytesAvailable c) s = .next (answers 0x15#8 (.count 0)) ∧
    exec (.bsWaitReady c timeout) s = .next (answers 0x16#8 (.bool false)) ∧
    exec (.bsRxBytes c bytes) s = .next s ∧
    exec (.bsTxDrain c k) s = .next s ∧
    exec (.bsChanError c kind) s = .next s

/-- R154: the complete table of the transitions of `BS.STATE`, for every channel and every operation. -/
def Obligations.OnlyOpenCloseAndErrorsMoveAChannel : Prop :=
  ∀ (i : Instr) (s t : State) (c : Chan), exec i s = .next t →
    let before := (s.chan c).state
    let after := (t.chan c).state
    after ≠ before →
      (∃ config draw, i = .bsOpen c config draw ∧ before ≠ .opened ∧ serialLegal config ∧
        after = if draw = .ok then .opened else .errored) ∨
      (i = .bsClose c ∧ after = .closed) ∨
      (∃ kind, i = .bsChanError c kind ∧ before = .opened ∧ after = .errored)

/-- R163, R76: while a channel stays open no operation loses, repeats or reorders a byte it has queued: what was sent and
what is queued only grow, at the end, together. -/
def Obligations.OpenChannelsLoseNothing : Prop :=
  ∀ (i : Instr) (s t : State) (c : Chan), exec i s = .next t → (s.chan c).state = .opened → (t.chan c).state = .opened →
    ∃ added : List Byte, (t.chan c).tx ++ (t.chan c).wq = (s.chan c).tx ++ (s.chan c).wq ++ added ∧
      (s.chan c).tx <+: (t.chan c).tx

/-! ### The CAN unit -/

/-- R198 and the first step of R207 (its last step is SuspendedCallsReturnInStepsOfTheirOwn). The list of suspended `stop`
calls with their deadlines, and that `start` notes in each that the thread it waits for has ended, are the model's own
(log 10). -/
def Obligations.CanStartAndStop : Prop :=
  ∀ s : State,
    (s.can.thread = .stopped → exec .canStart s = .next
      (traced
        { s with
          can := { s.can with q := [], received := 0, dropped := 0, running := true, thread := .active }
          stops := s.stops.map fun c => { c with joined := true } } []
        [returned .can 0x20#8 .void])) ∧
    (s.can.thread ≠ .stopped → exec .canStart s = .next (traced s [] [returned .can 0x20#8 .void])) ∧
    (s.can.thread = .stopped → exec .canStop s = .next (traced s [] [returned .can 0x21#8 .void])) ∧
    (s.can.thread ≠ .stopped → exec .canStop s = .next
      { s with can := { s.can with running := false }, stops := s.stops ++ [⟨s.now + s.params.joinTimeoutMs, false⟩] })

/-- R209 to R213 with R191: the five reads act on the queue while the receive path is started, on the normal-path buffer
otherwise; the counts change nothing. That `CAN.THREAD` alone decides, as R191 writes it, also between the thread's end and the
last step of `stop`, is the model's choice against 92_eei_decisions.md D17 (log 20). -/
def Obligations.CanReadsActOnTheActiveBuffer : Prop :=
  ∀ (s : State) (active : List CanFrame) (setActive : List CanFrame → State),
    (s.can.thread = .stopped ∧ active = s.can.vbuf ∧
        setActive = (fun fs => { s with can := { s.can with vbuf := fs } }) ∨
      s.can.thread ≠ .stopped ∧ active = s.can.q ∧ setActive = (fun fs => { s with can := { s.can with q := fs } })) →
    (active = [] → exec .canReadFrame s = .next (traced s [] [returned .can 0x22#8 (.frameOrNone none)])) ∧
    (∀ f rest, active = f :: rest → exec .canReadFrame s = .next
      (traced (setActive rest) [] [returned .can 0x22#8 (.frameOrNone (some f))])) ∧
    exec .canReadAllFrames s = .next (traced (setActive []) [] [returned .can 0x23#8 (.frames active)]) ∧
    exec .canBufferedCount s = .next (traced s [] [returned .can 0x24#8 (.count active.length)]) ∧
    exec .canReceivedCount s = .next (traced s [] [returned .can 0x25#8 (.count s.can.received)]) ∧
    exec .canDroppedCount s = .next (traced s [] [returned .can 0x26#8 (.count s.can.dropped)])

/-- R192, R195: an arrival waits in the device; the normal path takes every frame of the device, keeps the newest
`CAN_VCAP`, touches no counter and notifies every frame; while the thread exists or the device is empty it is no step
(log 3). That the path is active as soon as `CAN.THREAD` is stopped, before the last step of `stop`, is the model's choice
against 92_eei_decisions.md D17 (log 20). -/
def Obligations.CanArrivalAndNormalPath : Prop :=
  ∀ (s : State) (f : CanFrame),
    let all := s.can.vbuf ++ s.can.devq
    exec (.canArrive f) s = .next { s with can := { s.can with devq := s.can.devq ++ [f] } } ∧
    (s.can.thread = .stopped → s.can.devq ≠ [] → exec .canNormalDrain s = .next
      (traced { s with can := { s.can with vbuf := all.drop (all.length - s.can.vcap), devq := [] } }
        (s.can.devq.map fun f => ⟨.can, .frameReceived f⟩) [])) ∧
    (s.can.thread ≠ .stopped ∨ s.can.devq = [] → exec .canNormalDrain s = .next s)

/-- R199 to R202, R204: one turn of the receive thread, case by case. -/
def Obligations.CanThreadTurn : Prop :=
  ∀ (s : State) (f : CanFrame) (rest : List CanFrame),
    let enabled := s.can.thread = .active ∨ (s.can.thread = .sleeping ∧ s.can.wake ≤ s.now)
    let full := s.can.qcap ≤ s.can.q.length
    let pushed : State := { s with can := { s.can with
      devq := rest, q := s.can.q ++ [f], received := s.can.received + 1, thread := .active } }
    let replaced : State := { s with can := { s.can with
      devq := rest, q := s.can.q.drop 1 ++ [f], received := s.can.received + 1, dropped := s.can.dropped + 1,
      thread := .active } }
    let warns := (s.can.dropped + 1) % s.params.ovfNotifyEvery = 0
    (¬ enabled → exec .canThreadStep s = .next s) ∧
    (enabled → s.can.running = false →
      exec .canThreadStep s = .next { s with can := { s.can with thread := .stopped } }) ∧
    (enabled → s.can.running = true → s.can.devq = [] → exec .canThreadStep s = .next
      { s with can := { s.can with thread := .sleeping, wake := s.now + s.params.canIdleSleepMs } }) ∧
    (enabled → s.can.running = true → s.can.devq = f :: rest →
      (¬ full → exec .canThreadStep s = .next (traced pushed [⟨.can, .frameReceived f⟩] [])) ∧
      (full → ¬ warns → exec .canThreadStep s = .next (traced replaced [⟨.can, .frameReceived f⟩] [])) ∧
      (full → warns → exec .canThreadStep s = .next
        (traced replaced [⟨.can, .bufferOverflow (s.can.dropped + 1)⟩, ⟨.can, .frameReceived f⟩] [])))

/-- R214, the queue law: pushing the `N` frames of the device into an empty queue leaves its newest `min(N, C)` in order,
`received = N`, `dropped = N - C`, and one `bufferOverflow` per OVF_NOTIFY_EVERY drops. -/
def Obligations.QueueKeepsTheNewestFrames : Prop :=
  ∀ (s : State) (frames : List CanFrame), s.can.thread = .active → s.can.running = true → s.can.q = [] →
    s.can.received = 0 → s.can.dropped = 0 → 1 ≤ s.can.qcap → s.can.devq = frames →
    ∃ t : State, execAll (List.replicate frames.length .canThreadStep) s = .next t ∧
      t.can.q = frames.drop (frames.length - s.can.qcap) ∧
      t.can.received = frames.length ∧ t.can.dropped = frames.length - s.can.qcap ∧ t.can.devq = [] ∧
      (t.out.filter isOverflow).length =
        (s.out.filter isOverflow).length + (frames.length - s.can.qcap) / s.params.ovfNotifyEvery

/-- The accounting of R32: from a freshly started receive path, over any run of thread turns, arrivals, reads, counts and
ticks, every frame received was dropped, is in the queue, or was handed to the host. And no step of any kind that leaves the
path started changes the balance of the frames received against those dropped, queued and handed out. -/
def Obligations.CanFramesAreAccountedFor : Prop :=
  (∀ (run : List Instr) (s t : State),
    (∀ i ∈ run, i = .canThreadStep ∨ (∃ f, i = .canArrive f) ∨ i = .canReadFrame ∨ i = .canReadAllFrames ∨
      i = .canBufferedCount ∨ i = .canReceivedCount ∨ i = .canDroppedCount ∨ ∃ dt, i = .tick dt) →
    s.can.thread ≠ .stopped → s.can.running = true → s.can.q = [] → s.can.received = 0 → s.can.dropped = 0 →
    1 ≤ s.can.qcap → execAll run s = .next t →
    t.can.received + (s.returns.map framesGiven).sum =
      t.can.dropped + t.can.q.length + (t.returns.map framesGiven).sum) ∧
  (∀ s t : State, s.canOk → step s = .next t → s.can.thread ≠ .stopped → t.can.thread ≠ .stopped →
    t.can.received + s.can.dropped + s.can.q.length + (s.returns.map framesGiven).sum =
      s.can.received + t.can.dropped + t.can.q.length + (t.returns.map framesGiven).sum)

/-! ### The RTU slave -/

/-- R266, R267: wire opcodes 0x03 and 0x04 in a frame addressed to this slave: the exceptions in their order, else the
registers of the named bank, high byte first. -/
def Obligations.SlaveReadsRegisters : Prop :=
  ∀ (s : State) (data : List Byte) (start count : Nat),
    let u := s.sl.addr
    (data.length ≠ 4 →
      exec (.slvReadHoldingRegisters u data) s = .next (slaveRaised s u 0x03#8 0x03#8) ∧
      exec (.slvReadInputRegisters u data) s = .next (slaveRaised s u 0x04#8 0x03#8)) ∧
    (start < 65536 → count < 65536 → data = two start ++ two count →
      (count < 1 ∨ 125 < count →
        exec (.slvReadHoldingRegisters u data) s = .next (slaveRaised s u 0x03#8 0x03#8) ∧
        exec (.slvReadInputRegisters u data) s = .next (slaveRaised s u 0x04#8 0x03#8)) ∧
      (1 ≤ count → count ≤ 125 →
        (s.sl.hr.length < start + count →
          exec (.slvReadHoldingRegisters u data) s = .next (slaveRaised s u 0x03#8 0x02#8)) ∧
        (start + count ≤ s.sl.hr.length →
          exec (.slvReadHoldingRegisters u data) s = .next
            (slaveSent (traced s [⟨.slave, .readRequest 0x03#8 start count⟩] [])
              ([u, 0x03#8, BitVec.ofNat 8 (2 * count)] ++ registerBytes ((s.sl.hr.drop start).take count)))) ∧
        (s.sl.ir.length < start + count →
          exec (.slvReadInputRegisters u data) s = .next (slaveRaised s u 0x04#8 0x02#8)) ∧
        (start + count ≤ s.sl.ir.length →
          exec (.slvReadInputRegisters u data) s = .next
            (slaveSent (traced s [⟨.slave, .readRequest 0x04#8 start count⟩] [])
              ([u, 0x04#8, BitVec.ofNat 8 (2 * count)] ++ registerBytes ((s.sl.ir.drop start).take count))))))

/-- R268: wire opcode 0x06. -/
def Obligations.SlaveWritesOneRegister : Prop :=
  ∀ (s : State) (data : List Byte) (addr : Nat) (value : Word),
    let u := s.sl.addr
    (data.length ≠ 4 → exec (.slvWriteSingleRegister u data) s = .next (slaveRaised s u 0x06#8 0x03#8)) ∧
    (addr < 65536 → data = two addr ++ [hi8 value, lo8 value] →
      (s.sl.hr.length ≤ addr → exec (.slvWriteSingleRegister u data) s = .next (slaveRaised s u 0x06#8 0x02#8)) ∧
      (addr < s.sl.hr.length → exec (.slvWriteSingleRegister u data) s = .next
        (slaveSent
          (traced { s with sl := { s.sl with hr := s.sl.hr.set addr value } } [⟨.slave, .writeRequest addr value⟩] [])
          ([u, 0x06#8] ++ data))))

/-- R269: wire opcode 0x10: the exceptions in their order; else every register of the run is written, and no other, with one
`writeRequest` each, lowest address first. -/
def Obligations.SlaveWritesARegisterRun : Prop :=
  ∀ (s : State) (data block : List Byte) (start count : Nat) (bc : Byte),
    let u := s.sl.addr
    let raises (code : Byte) := exec (.slvWriteMultipleRegisters u data) s = .next (slaveRaised s u 0x10#8 code)
    (data.length < 5 → raises 0x03#8) ∧
    (start < 65536 → count < 65536 → data = two start ++ two count ++ bc :: block →
      (count < 1 ∨ 123 < count → raises 0x03#8) ∧
      (1 ≤ count → count ≤ 123 →
        (bc.toNat ≠ 2 * count ∨ block.length ≠ bc.toNat → raises 0x03#8) ∧
        (bc.toNat = 2 * count → block.length = bc.toNat →
          (s.sl.hr.length < start + count → raises 0x02#8) ∧
          (start + count ≤ s.sl.hr.length →
            let value (i : Nat) : Word := be16 (block.getD (2 * i) 0#8) (block.getD (2 * i + 1) 0#8)
            ∃ bank : List Word, bank.length = s.sl.hr.length ∧
              (∀ i < count, bank[start + i]? = some (value i)) ∧
              (∀ a, (a < start ∨ start + count ≤ a) → bank[a]? = s.sl.hr[a]?) ∧
              exec (.slvWriteMultipleRegisters u data) s = .next
                (slaveSent
                  (traced { s with sl := { s.sl with hr := bank } }
                    ((List.range count).map fun i => ⟨.slave, .writeRequest (start + i) (value i)⟩) [])
                  ([u, 0x10#8] ++ two start ++ two count))))))

/-- R265, R272: a function code outside the four is answered with exception 0x01 whatever the data; the exception response
is the notification and the five bytes, and nothing else. That the notification carries a function code with bit 7 clear, as
R347 says, where R272 writes `fc`, is the model's reading (log 16). -/
def Obligations.SlaveRaisesExceptions : Prop :=
  ∀ (s : State) (fc : Byte) (data : List Byte),
    (fc ≠ 0x03#8 → fc ≠ 0x04#8 → fc ≠ 0x06#8 → fc ≠ 0x10#8 →
      exec (.slvUnsupportedFunction s.sl.addr fc data) s = .next (slaveRaised s s.sl.addr fc 0x01#8)) ∧
    exec (.exceptionResponseBuild fc .illegalFunction) s = .next (slaveRaised s s.sl.addr fc 0x01#8) ∧
    exec (.exceptionResponseBuild fc .illegalDataAddress) s = .next (slaveRaised s s.sl.addr fc 0x02#8) ∧
    exec (.exceptionResponseBuild fc .illegalDataValue) s = .next (slaveRaised s s.sl.addr fc 0x03#8)

/-- R238: a frame addressed to another unit is discarded silently, whatever it holds. -/
def Obligations.FramesForOtherUnitsVanish : Prop :=
  ∀ (s : State) (unit fc : Byte) (data : List Byte), unit ≠ s.sl.addr →
    exec (.slvReadHoldingRegisters unit data) s = .next s ∧
    exec (.slvReadInputRegisters unit data) s = .next s ∧
    exec (.slvWriteSingleRegister unit data) s = .next s ∧
    exec (.slvWriteMultipleRegisters unit data) s = .next s ∧
    exec (.slvUnsupportedFunction unit fc data) s = .next s ∧
    (s.sl.gapArmed = true → s.sl.gapDeadline ≤ s.now → s.sl.asm = withCrc (unit :: fc :: data) →
      exec .slGapFire s = .next { s with sl := { s.sl with asm := [], gapArmed := false } })

/-- R231, R232, R260: `SlaveRx` takes the bytes of the open channel and restarts the gap timer; when the timer fires, the
assembled bytes are one frame: the operation it decodes to is executed, and bytes that do not decode are discarded. Without
bytes, and before the deadline, they are no step (log 3). -/
def Obligations.SlaveCutsFramesBySilence : Prop :=
  ∀ s : State,
    let cleared : State := { s with sl := { s.sl with asm := [], gapArmed := false } }
    (s.sl.bs.state = .opened → s.sl.bs.rb ≠ [] → exec .slSlaveRx s = .next
      { s with sl := { s.sl with
          bs := { s.sl.bs with rb := [] }
          asm := s.sl.asm ++ s.sl.bs.rb
          gapArmed := true
          gapDeadline := s.now + s.sl.gapMs } }) ∧
    (s.sl.bs.state ≠ .opened ∨ s.sl.bs.rb = [] → exec .slSlaveRx s = .next s) ∧
    (s.sl.gapArmed = true → s.sl.gapDeadline ≤ s.now →
      (∀ i, slaveDecode s.sl.asm = some i → exec .slGapFire s = exec i cleared) ∧
      (slaveDecode s.sl.asm = none → exec .slGapFire s = .next cleared)) ∧
    (s.sl.gapArmed = false ∨ s.now < s.sl.gapDeadline → exec .slGapFire s = .next s)

/-- R276 to R279: the host's four register operations, inside the bank and outside it. -/
def Obligations.HostReadsAndWritesTheBanks : Prop :=
  ∀ (s : State) (addr : Nat) (value : Word),
    (addr < s.sl.hr.length →
      exec (.slSetHoldingRegister addr value) s = .next
        (traced { s with sl := { s.sl with hr := s.sl.hr.set addr value } } []
          [returned .slave 0x30#8 (.bool true)]) ∧
      ∃ v, s.sl.hr[addr]? = some v ∧
        exec (.slGetHoldingRegister addr) s = .next (traced s [] [returned .slave 0x31#8 (.valueOrNone (some v))])) ∧
    (s.sl.hr.length ≤ addr →
      exec (.slSetHoldingRegister addr value) s = .next (traced s [] [returned .slave 0x30#8 (.bool false)]) ∧
      exec (.slGetHoldingRegister addr) s = .next (traced s [] [returned .slave 0x31#8 (.valueOrNone none)])) ∧
    (addr < s.sl.ir.length →
      exec (.slSetInputRegister addr value) s = .next
        (traced { s with sl := { s.sl with ir := s.sl.ir.set addr value } } []
          [returned .slave 0x32#8 (.bool true)]) ∧
      ∃ v, s.sl.ir[addr]? = some v ∧
        exec (.slGetInputRegister addr) s = .next (traced s [] [returned .slave 0x33#8 (.valueOrNone (some v))])) ∧
    (s.sl.ir.length ≤ addr →
      exec (.slSetInputRegister addr value) s = .next (traced s [] [returned .slave 0x32#8 (.bool false)]) ∧
      exec (.slGetInputRegister addr) s = .next (traced s [] [returned .slave 0x33#8 (.valueOrNone none)]))

/-- R280 (a), (b): only opcodes 0x06 and 0x10 (alone or inside `GapFire`) and the host's setter write a holding register,
only the host's setter writes an input register, and no operation changes a bank's length. -/
def Obligations.BanksAreWrittenOnlyByTheirWriters : Prop :=
  ∀ (i : Instr) (s t : State), exec i s = .next t →
    (t.sl.hr ≠ s.sl.hr →
      (∃ data, i = .slvWriteSingleRegister s.sl.addr data) ∨ (∃ data, i = .slvWriteMultipleRegisters s.sl.addr data) ∨
      (∃ addr value, i = .slSetHoldingRegister addr value) ∨
      (i = .slGapFire ∧ ∃ data, slaveDecode s.sl.asm = some (.slvWriteSingleRegister s.sl.addr data) ∨
        slaveDecode s.sl.asm = some (.slvWriteMultipleRegisters s.sl.addr data))) ∧
    (t.sl.ir ≠ s.sl.ir → ∃ addr value, i = .slSetInputRegister addr value) ∧
    t.sl.hr.length = s.sl.hr.length ∧ t.sl.ir.length = s.sl.ir.length

/-- R280 (e): what the slave answers to a completed frame depends on the frame, its address and its banks only: two states
that agree on these (and on whether the channel is open) answer with the same bytes, the same notifications and the same
banks, whatever else they hold. -/
def Obligations.SlaveAnswerDependsOnFrameAndBanks : Prop :=
  ∀ s₁ s₂ : State, s₁.sl.addr = s₂.sl.addr → s₁.sl.hr = s₂.sl.hr → s₁.sl.ir = s₂.sl.ir → s₁.sl.asm = s₂.sl.asm →
    s₁.sl.bs.state = s₂.sl.bs.state → s₁.sl.gapArmed = true → s₂.sl.gapArmed = true →
    s₁.sl.gapDeadline ≤ s₁.now → s₂.sl.gapDeadline ≤ s₂.now →
    ∃ (t₁ t₂ : State) (sent : List Byte) (notes : List Notification),
      exec .slGapFire s₁ = .next t₁ ∧ exec .slGapFire s₂ = .next t₂ ∧
      t₁.sl.bs.wq = s₁.sl.bs.wq ++ sent ∧ t₂.sl.bs.wq = s₂.sl.bs.wq ++ sent ∧
      t₁.out = s₁.out ++ notes ∧ t₂.out = s₂.out ++ notes ∧
      t₁.sl.hr = t₂.sl.hr ∧ t₁.sl.ir = t₂.sl.ir

/-! ### The frame parser -/

/-- R239 with R235, R237, R238: the three checks in their order, and the fields of an accepted frame. -/
def Obligations.RtuChecksInOrder : Prop :=
  ∀ (frame : List Byte) (a : Byte),
    let n := frame.length
    let crcOk := (crc16 (frame.take (n - 2))).toNat =
      (frame.getD (n - 2) 0#8).toNat + 256 * (frame.getD (n - 1) 0#8).toNat
    (n < 4 → rtuCheck frame a = .error .tooShort) ∧
    (4 ≤ n → ¬ crcOk → rtuCheck frame a = .error .badCrc) ∧
    (4 ≤ n → crcOk → frame[0]? ≠ some a → rtuCheck frame a = .error .otherUnit) ∧
    (4 ≤ n → crcOk → frame[0]? = some a → ∃ (fc lo hi : Byte) (data : List Byte),
      frame = a :: fc :: (data ++ [lo, hi]) ∧ rtuCheck frame a = .ok ⟨a, fc, data⟩)

/-- R306, R240: the length of a complete response, by function code, and the class of a PDU, by its exception bit. -/
def Obligations.ResponseLengthsAndClasses : Prop :=
  (∀ buf : List Byte, buf.length < 3 → rtuComplete buf = none) ∧
  (∀ (unit fc n : Byte) (rest : List Byte),
    let known (len : Nat) := rtuComplete (unit :: fc :: n :: rest) = if len ≤ 3 + rest.length then some len else none
    (fc.getLsbD 7 = true → known 5) ∧
    (fc = 0x01#8 ∨ fc = 0x02#8 ∨ fc = 0x03#8 ∨ fc = 0x04#8 → known (3 + n.toNat + 2)) ∧
    (fc = 0x05#8 ∨ fc = 0x06#8 ∨ fc = 0x0F#8 ∨ fc = 0x10#8 → known 8) ∧
    (fc.getLsbD 7 = false → fc ∉ [0x01#8, 0x02#8, 0x03#8, 0x04#8, 0x05#8, 0x06#8, 0x0F#8, 0x10#8] →
      rtuComplete (unit :: fc :: n :: rest) = none)) ∧
  (∀ (fc code : Byte) (data : List Byte),
    (fc &&& 0x80#8 ≠ 0#8 → pduClass fc (code :: data) = .exception (fc &&& 0x7F#8) code) ∧
    (fc &&& 0x80#8 = 0#8 → pduClass fc data = .normal fc data))

/-- R241, R320: the delimiter cuts exactly a frame the master's own framing builds, whatever follows it, and waits while any
of its bytes is missing. -/
def Obligations.MbapSplitCutsWholeFrames : Prop :=
  ∀ (txn : Word) (unit fc : Byte) (data rest : List Byte), data.length + 2 < 65536 →
    let frame := [hi8 txn, lo8 txn, 0x00#8, 0x00#8] ++ two (data.length + 2) ++ [unit, fc] ++ data
    mbapSplit (frame ++ rest) = some (frame, rest) ∧ mbapFields frame = ⟨txn, 0#16, BitVec.ofNat 16 (data.length + 2), unit, fc, data⟩ ∧
    (∀ n < frame.length, mbapSplit (frame.take n) = none)

/-- R243, R323 and the scenario of 95_test_vectors.md S8: frames that do not match are consumed and ignored, however many. The
first that matches is found, and what follows it is kept; when none does, only the bytes of a frame not yet complete are
kept. -/
def Obligations.MismatchingTcpFramesAreSkipped : Prop :=
  ∀ (bad : List (List Byte)) (t : Word) (u : Byte),
    (∀ f ∈ bad, (∀ more, mbapSplit (f ++ more) = some (f, more)) ∧ mbapMatch f t u = none) →
    (∀ (good rest : List Byte) (fc : Byte) (data : List Byte),
      (∀ more, mbapSplit (good ++ more) = some (good, more)) → mbapMatch good t u = some (fc, data) →
      mbapScan (bad.flatten ++ good ++ rest) t u = ⟨some (fc, data), rest⟩) ∧
    (∀ part : List Byte, mbapSplit part = none → mbapScan (bad.flatten ++ part) t u = ⟨none, part⟩)

/-- R101, R100: packing and unpacking of bit and register data blocks are inverse, with the place of every bit. -/
def Obligations.DataBlocksRoundTrip : Prop :=
  (∀ values : List Bool, unpackBits values.length (packBits values) = values) ∧
  (∀ values : List Bool, (packBits values).length = (values.length + 7) / 8) ∧
  (∀ (values : List Bool) (i : Nat), i < 8 * ((values.length + 7) / 8) →
    ((packBits values).getD (i / 8) 0#8).getLsbD (i % 8) = values.getD i false) ∧
  (∀ vs : List Word, bytesToWords (wordsToBytes vs) = vs ∧ wordsToBytes vs = registerBytes vs)

/-! ### The RTU master -/

/-- R310 to R317 with R301, R303: what each of the eight request operations sends, and the context it leaves. -/
def Obligations.RtuMasterSendsRequests : Prop :=
  ∀ s : State, rtuReady s →
    (∀ start count, start ≤ 65535 → 1 ≤ count → count ≤ s.params.maxReadBits → count ≤ 65535 →
      exec (.rmReadCoils start count) s =
        .next (rtuSent s .readCoils 0x01#8 (two start ++ two count) start count) ∧
      exec (.rmReadDiscreteInputs start count) s =
        .next (rtuSent s .readDiscreteInputs 0x02#8 (two start ++ two count) start count)) ∧
    (∀ start count, start ≤ 65535 → 1 ≤ count → count ≤ 125 →
      exec (.rmReadHoldingRegisters start count) s =
        .next (rtuSent s .readHoldingRegisters 0x03#8 (two start ++ two count) start count) ∧
      exec (.rmReadInputRegisters start count) s =
        .next (rtuSent s .readInputRegisters 0x04#8 (two start ++ two count) start count)) ∧
    (∀ addr, addr ≤ 65535 →
      exec (.rmWriteSingleCoil addr true) s =
        .next (rtuSent s .writeSingleCoil 0x05#8 (two addr ++ [0xFF#8, 0x00#8]) addr 0xFF00) ∧
      exec (.rmWriteSingleCoil addr false) s =
        .next (rtuSent s .writeSingleCoil 0x05#8 (two addr ++ [0x00#8, 0x00#8]) addr 0x0000)) ∧
    (∀ addr value, addr ≤ 65535 →
      exec (.rmWriteSingleRegister addr value) s =
        .next (rtuSent s .writeSingleRegister 0x06#8 (two addr ++ [hi8 value, lo8 value]) addr value.toNat)) ∧
    (∀ start values, start ≤ 65535 → 1 ≤ values.length → values.length ≤ 1968 →
      exec (.rmWriteMultipleCoils start values) s = .next
        (rtuSent s .writeMultipleCoils 0x0F#8
          (two start ++ two values.length ++ BitVec.ofNat 8 ((values.length + 7) / 8) :: packBits values)
          start values.length)) ∧
    (∀ start values, start ≤ 65535 → 1 ≤ values.length → values.length ≤ 123 →
      exec (.rmWriteMultipleRegisters start values) s = .next
        (rtuSent s .writeMultipleRegisters 0x10#8
          (two start ++ two values.length ++ BitVec.ofNat 8 (2 * values.length) :: registerBytes values)
          start values.length))

/-- R302 and R321: when a request is refused (busy, not open or not connected, an argument out of range) each of the
sixteen operations returns its failure result and changes nothing. -/
def Obligations.RefusedRequestsChangeNothing : Prop :=
  (∀ s : State,
    let fails (index : Byte) (r : Result) : State := traced s [] [returned .rtuMaster index r]
    (∀ start count, ¬ rtuReady s ∨ 65535 < start ∨ count < 1 ∨ s.params.maxReadBits < count →
      exec (.rmReadCoils start count) s = .next (fails 0x40#8 (.bools [])) ∧
      exec (.rmReadDiscreteInputs start count) s = .next (fails 0x41#8 (.bools []))) ∧
    (∀ start count, ¬ rtuReady s ∨ 65535 < start ∨ count < 1 ∨ 125 < count →
      exec (.rmReadHoldingRegisters start count) s = .next (fails 0x42#8 (.words [])) ∧
      exec (.rmReadInputRegisters start count) s = .next (fails 0x43#8 (.words []))) ∧
    (∀ addr on value, ¬ rtuReady s ∨ 65535 < addr →
      exec (.rmWriteSingleCoil addr on) s = .next (fails 0x44#8 (.bool false)) ∧
      exec (.rmWriteSingleRegister addr value) s = .next (fails 0x45#8 (.bool false))) ∧
    (∀ start values, ¬ rtuReady s ∨ 65535 < start ∨ values.length < 1 ∨ 1968 < values.length →
      exec (.rmWriteMultipleCoils start values) s = .next (fails 0x46#8 (.bool false))) ∧
    (∀ start values, ¬ rtuReady s ∨ 65535 < start ∨ values.length < 1 ∨ 123 < values.length →
      exec (.rmWriteMultipleRegisters start values) s = .next (fails 0x47#8 (.bool false)))) ∧
  (∀ s : State,
    let fails (index : Byte) (r : Result) : State := traced s [] [returned .tcpMaster index r]
    (∀ start count, ¬ tcpReady s ∨ 65535 < start ∨ count < 1 ∨ s.params.maxReadBits < count →
      exec (.tmReadCoils start count) s = .next (fails 0x50#8 (.bools [])) ∧
      exec (.tmReadDiscreteInputs start count) s = .next (fails 0x51#8 (.bools []))) ∧
    (∀ start count, ¬ tcpReady s ∨ 65535 < start ∨ count < 1 ∨ 125 < count →
      exec (.tmReadHoldingRegisters start count) s = .next (fails 0x52#8 (.words [])) ∧
      exec (.tmReadInputRegisters start count) s = .next (fails 0x53#8 (.words []))) ∧
    (∀ addr on value, ¬ tcpReady s ∨ 65535 < addr →
      exec (.tmWriteSingleCoil addr on) s = .next (fails 0x54#8 (.bool false)) ∧
      exec (.tmWriteSingleRegister addr value) s = .next (fails 0x55#8 (.bool false))) ∧
    (∀ start values, ¬ tcpReady s ∨ 65535 < start ∨ values.length < 1 ∨ 1968 < values.length →
      exec (.tmWriteMultipleCoils start values) s = .next (fails 0x56#8 (.bool false))) ∧
    (∀ start values, ¬ tcpReady s ∨ 65535 < start ∨ values.length < 1 ∨ 123 < values.length →
      exec (.tmWriteMultipleRegisters start values) s = .next (fails 0x57#8 (.bool false))))

/-- R305: one turn of the RTU master's wait loop: the bytes that arrived are taken; an accepted response ends the request
first; otherwise the deadline does; otherwise the wait goes on. After a channel error no response is accepted: a request whose
channel has failed is ended by no operation but the poll at or after its deadline (R169). A master that is not waiting does
not poll (log 3). That the bytes that arrive meanwhile are still taken is the model's choice (log 19). -/
def Obligations.MasterPollTurn : Prop :=
  (∀ (s : State) (ctx : TransactionContext), s.rm.state = .awaitingResponse → s.rm.ctx = some ctx →
    let got := if s.rm.bs.state = .opened then s.rm.bs.rb else []
    let buf := ctx.resp ++ got
    let taken : State := { s with rm := { s.rm with
      bs := { s.rm.bs with rb := if s.rm.bs.state = .opened then [] else s.rm.bs.rb }
      ctx := some { ctx with resp := buf } } }
    let accepted (p : RtuPdu) : Prop :=
      ctx.lost = false ∧ ∃ len, rtuComplete buf = some len ∧ rtuCheck (buf.take len) ctx.addr = .ok p
    (∀ p, accepted p →
      (∀ code more, p.fc.getLsbD 7 = true → p.data = code :: more → exec .rmMasterPoll s = .next
        (rtuEnded (traced taken [⟨.rtuMaster, .modbusException (p.fc &&& 0x7F#8) code⟩] []) ctx ctx.fc.failure)) ∧
      (∀ fc : FunctionCode, p.fc = fc.code → exec .rmMasterPoll s =
        .next (rtuEnded taken ctx (answer ctx fc p.data)))) ∧
    ((∀ p, ¬ accepted p) → ctx.deadline ≤ s.now → exec .rmMasterPoll s = .next (rtuEnded taken ctx ctx.fc.failure)) ∧
    ((∀ p, ¬ accepted p) → s.now < ctx.deadline → exec .rmMasterPoll s = .next taken)) ∧
  (∀ (i : Instr) (s t : State) (ctx : TransactionContext), exec i s = .next t →
    s.rm.state = .awaitingResponse → s.rm.ctx = some ctx → ctx.lost = true →
    (i = .rmMasterPoll ∧ ctx.deadline ≤ s.now) ∨
      (t.rm.state = .awaitingResponse ∧ ∃ resp, t.rm.ctx = some { ctx with resp := resp })) ∧
  (∀ s : State, s.rm.state = .idle → exec .rmMasterPoll s = .next s)

/-- Master and slave agree on the wire: the response this block's slave queues for a read request is accepted by this
block's RTU master and decoded to exactly the registers of the bank. -/
def Obligations.SlaveAnswersWhatTheMasterDecodes : Prop :=
  ∀ (s t m : State) (unit : Byte) (start count : Nat) (fc : FunctionCode) (bank : List Word) (ctx : TransactionContext),
    (fc = .readHoldingRegisters ∧ bank = s.sl.hr ∨ fc = .readInputRegisters ∧ bank = s.sl.ir) →
    start < 65536 → 1 ≤ count → count ≤ 125 → start + count ≤ bank.length →
    s.sl.addr = unit → s.sl.bs.state = .opened → s.sl.bs.wq = [] → s.sl.gapArmed = true → s.sl.gapDeadline ≤ s.now →
    s.sl.asm = withCrc (unit :: fc.code :: (two start ++ two count)) →
    exec .slGapFire s = .next t →
    m.rm.state = .awaitingResponse → m.rm.ctx = some ctx → ctx.addr = unit → ctx.fc = fc →
    ctx.req.second = BitVec.ofNat 16 count → ctx.resp = [] → ctx.lost = false → m.rm.bs.state = .opened → m.rm.bs.rb = t.sl.bs.wq →
    ∃ m' : State, exec .rmMasterPoll m = .next m' ∧ m'.rm.state = .idle ∧ m'.rm.ctx = none ∧ m'.out = m.out ∧
      m'.returns = m.returns ++
        [returned .rtuMaster (0x40#8 + fc.slot) (.words ((bank.drop start).take count))]

/-! ### The TCP master -/

/-- R310 to R317 with R320, R321, R324: what each of the eight request operations hands to the stream. -/
def Obligations.TcpMasterSendsRequests : Prop :=
  ∀ s : State, tcpReady s →
    (∀ start count, start ≤ 65535 → 1 ≤ count → count ≤ s.params.maxReadBits → count ≤ 65535 →
      exec (.tmReadCoils start count) s =
        .next (tcpSent s .readCoils 0x01#8 (two start ++ two count) start count) ∧
      exec (.tmReadDiscreteInputs start count) s =
        .next (tcpSent s .readDiscreteInputs 0x02#8 (two start ++ two count) start count)) ∧
    (∀ start count, start ≤ 65535 → 1 ≤ count → count ≤ 125 →
      exec (.tmReadHoldingRegisters start count) s =
        .next (tcpSent s .readHoldingRegisters 0x03#8 (two start ++ two count) start count) ∧
      exec (.tmReadInputRegisters start count) s =
        .next (tcpSent s .readInputRegisters 0x04#8 (two start ++ two count) start count)) ∧
    (∀ addr, addr ≤ 65535 →
      exec (.tmWriteSingleCoil addr true) s =
        .next (tcpSent s .writeSingleCoil 0x05#8 (two addr ++ [0xFF#8, 0x00#8]) addr 0xFF00) ∧
      exec (.tmWriteSingleCoil addr false) s =
        .next (tcpSent s .writeSingleCoil 0x05#8 (two addr ++ [0x00#8, 0x00#8]) addr 0x0000)) ∧
    (∀ addr value, addr ≤ 65535 →
      exec (.tmWriteSingleRegister addr value) s =
        .next (tcpSent s .writeSingleRegister 0x06#8 (two addr ++ [hi8 value, lo8 value]) addr value.toNat)) ∧
    (∀ start values, start ≤ 65535 → 1 ≤ values.length → values.length ≤ 1968 →
      exec (.tmWriteMultipleCoils start values) s = .next
        (tcpSent s .writeMultipleCoils 0x0F#8
          (two start ++ two values.length ++ BitVec.ofNat 8 ((values.length + 7) / 8) :: packBits values)
          start values.length)) ∧
    (∀ start values, start ≤ 65535 → 1 ≤ values.length → values.length ≤ 123 →
      exec (.tmWriteMultipleRegisters start values) s = .next
        (tcpSent s .writeMultipleRegisters 0x10#8
          (two start ++ two values.length ++ BitVec.ofNat 8 (2 * values.length) :: registerBytes values)
          start values.length))

/-- R323: one turn of the TCP master's wait loop, over the frames the stream holds. A request whose connection has ended consumes
every whole frame as a request that waits for another does (R243), and is ended by no operation but the poll at or after its
deadline (R326, R328). A master that is not waiting does not poll (log 3). That a frame which would answer such a request is
consumed with the others, and that unconsumed bytes go back also without a connection, is the model's choice (log 18). -/
def Obligations.TcpPollTurn : Prop :=
  (∀ (s : State) (ctx : TransactionContext), s.tm.state = .awaitingResponse → s.tm.ctx = some ctx → ctx.lost = false →
    let scan := mbapScan (ctx.resp ++ s.tm.rxs) ctx.txn ctx.addr
    let taken : State := { s with tm := { s.tm with rxs := [], ctx := some { ctx with resp := scan.rest } } }
    (∀ fc code more, scan.found = some (fc, code :: more) → fc.getLsbD 7 = true → exec .tmTcpPoll s = .next
      (tcpEnded (traced taken [⟨.tcpMaster, .modbusException (fc &&& 0x7F#8) code⟩] []) ctx scan.rest ctx.fc.failure)) ∧
    (∀ fc, scan.found = some (fc, []) → fc.getLsbD 7 = true →
      exec .tmTcpPoll s = .next (tcpEnded taken ctx scan.rest ctx.fc.failure)) ∧
    (∀ (fc : FunctionCode) (data : List Byte), scan.found = some (fc.code, data) →
      exec .tmTcpPoll s = .next (tcpEnded taken ctx scan.rest (answer ctx fc data))) ∧
    (∀ fc data, scan.found = some (fc, data) → fc.getLsbD 7 = false → fc ≠ ctx.fc.code →
      exec .tmTcpPoll s = .next (tcpEnded taken ctx scan.rest ctx.fc.failure)) ∧
    (scan.found = none → ctx.deadline ≤ s.now →
      exec .tmTcpPoll s = .next (tcpEnded taken ctx scan.rest ctx.fc.failure)) ∧
    (scan.found = none → s.now < ctx.deadline → exec .tmTcpPoll s = .next taken)) ∧
  (∀ (s : State) (ctx : TransactionContext), s.tm.state = .awaitingResponse → s.tm.ctx = some ctx → ctx.lost = true →
    ∃ (frames : List (List Byte)) (part : List Byte), ctx.resp ++ s.tm.rxs = frames.flatten ++ part ∧
      (∀ f ∈ frames, ∀ more, mbapSplit (f ++ more) = some (f, more)) ∧ mbapSplit part = none ∧
      let taken : State := { s with tm := { s.tm with rxs := [], ctx := some { ctx with resp := part } } }
      (ctx.deadline ≤ s.now → exec .tmTcpPoll s = .next (tcpEnded taken ctx part ctx.fc.failure)) ∧
      (s.now < ctx.deadline → exec .tmTcpPoll s = .next taken)) ∧
  (∀ (i : Instr) (s t : State) (ctx : TransactionContext), exec i s = .next t →
    s.tm.state = .awaitingResponse → s.tm.ctx = some ctx → ctx.lost = true →
    (i = .tmTcpPoll ∧ ctx.deadline ≤ s.now) ∨
      (t.tm.state = .awaitingResponse ∧ ∃ resp, t.tm.ctx = some { ctx with resp := resp })) ∧
  (∀ s : State, s.tm.state = .idle → exec .tmTcpPoll s = .next s)

/-- R325 to R328: `connect`, `disconnect`, `TcpRx`, `TcpPeerClose`, in both connection states. The end of the connection loses
the outstanding request: it fails at its deadline (TcpPollTurn). That the bytes in its context stay is the model's choice
(log 18); that a close without a connection is no step is log 3. -/
def Obligations.TcpConnectionOperations : Prop :=
  ∀ (s : State) (ok : Bool) (bytes : List Byte),
    let down : State := { s with tm := { s.tm with conn := false, rxs := [], ctx := lostContext s.tm.ctx } }
    (s.tm.conn = true →
      exec (.tmConnect ok) s = .next (traced s [] [returned .tcpMaster 0x58#8 (.bool true)]) ∧
      exec .tmDisconnect s =
        .next (traced down [⟨.tcpMaster, .disconnected⟩] [returned .tcpMaster 0x59#8 .void]) ∧
      exec (.tmTcpRx bytes) s = .next { s with tm := { s.tm with rxs := s.tm.rxs ++ bytes } } ∧
      exec .tmTcpPeerClose s = .next
        (traced down [⟨.tcpMaster, .error .connectionError⟩, ⟨.tcpMaster, .disconnected⟩] [])) ∧
    (s.tm.conn = false →
      exec (.tmConnect true) s = .next
        (traced { s with tm := { s.tm with conn := true, rxs := [] } } [⟨.tcpMaster, .connected⟩]
          [returned .tcpMaster 0x58#8 (.bool true)]) ∧
      exec (.tmConnect false) s = .next
        (traced s [⟨.tcpMaster, .error .connectionError⟩] [returned .tcpMaster 0x58#8 (.bool false)]) ∧
      exec .tmDisconnect s = .next (traced down [] [returned .tcpMaster 0x59#8 .void]) ∧
      exec (.tmTcpRx bytes) s = .next s ∧
      exec .tmTcpPeerClose s = .next s)

/-! ### The wire opcodes of the masters -/

/-- The request form of the sixteen `.rtu` and `.tcp` rows: the frame of R301 on the line and the context of R303, or the
frame of R320 on the stream and the context of R321. -/
def Obligations.WireRequestsAreSent : Prop :=
  (∀ s : State, rtuReady s →
    (∀ q : ReadReq, 1 ≤ q.count.toNat → q.count.toNat ≤ s.params.maxReadBits →
      exec (.rtuReadCoils (.request q)) s = .next
        (rtuSent s .readCoils 0x01#8 [hi8 q.start, lo8 q.start, hi8 q.count, lo8 q.count] q.start.toNat q.count.toNat) ∧
      exec (.rtuReadDiscreteInputs (.request q)) s = .next
        (rtuSent s .readDiscreteInputs 0x02#8 [hi8 q.start, lo8 q.start, hi8 q.count, lo8 q.count]
          q.start.toNat q.count.toNat)) ∧
    (∀ q : ReadReq, 1 ≤ q.count.toNat → q.count.toNat ≤ 125 →
      exec (.rtuReadHoldingRegisters (.request q)) s = .next
        (rtuSent s .readHoldingRegisters 0x03#8 [hi8 q.start, lo8 q.start, hi8 q.count, lo8 q.count]
          q.start.toNat q.count.toNat) ∧
      exec (.rtuReadInputRegisters (.request q)) s = .next
        (rtuSent s .readInputRegisters 0x04#8 [hi8 q.start, lo8 q.start, hi8 q.count, lo8 q.count]
          q.start.toNat q.count.toNat)) ∧
    (∀ q : CoilReq, exec (.rtuWriteSingleCoil (.request q)) s = .next
      (rtuSent s .writeSingleCoil 0x05#8 [hi8 q.addr, lo8 q.addr, if q.on then 0xFF#8 else 0x00#8, 0x00#8]
        q.addr.toNat (if q.on then 0xFF00 else 0x0000))) ∧
    (∀ q : RegReq, exec (.rtuWriteSingleRegister (.request q)) s = .next
      (rtuSent s .writeSingleRegister 0x06#8 [hi8 q.addr, lo8 q.addr, hi8 q.value, lo8 q.value]
        q.addr.toNat q.value.toNat)) ∧
    (∀ q : CoilsReq, 1 ≤ q.values.length → q.values.length ≤ 1968 →
      exec (.rtuWriteMultipleCoils (.request q)) s = .next
        (rtuSent s .writeMultipleCoils 0x0F#8
          ([hi8 q.start, lo8 q.start] ++ two q.values.length ++
            BitVec.ofNat 8 ((q.values.length + 7) / 8) :: packBits q.values) q.start.toNat q.values.length)) ∧
    (∀ q : RegsReq, 1 ≤ q.values.length → q.values.length ≤ 123 →
      exec (.rtuWriteMultipleRegisters (.request q)) s = .next
        (rtuSent s .writeMultipleRegisters 0x10#8
          ([hi8 q.start, lo8 q.start] ++ two q.values.length ++
            BitVec.ofNat 8 (2 * q.values.length) :: registerBytes q.values) q.start.toNat q.values.length))) ∧
  (∀ s : State, tcpReady s →
    (∀ q : ReadReq, 1 ≤ q.count.toNat → q.count.toNat ≤ s.params.maxReadBits →
      exec (.tcpReadCoils (.request q)) s = .next
        (tcpSent s .readCoils 0x01#8 [hi8 q.start, lo8 q.start, hi8 q.count, lo8 q.count] q.start.toNat q.count.toNat) ∧
      exec (.tcpReadDiscreteInputs (.request q)) s = .next
        (tcpSent s .readDiscreteInputs 0x02#8 [hi8 q.start, lo8 q.start, hi8 q.count, lo8 q.count]
          q.start.toNat q.count.toNat)) ∧
    (∀ q : ReadReq, 1 ≤ q.count.toNat → q.count.toNat ≤ 125 →
      exec (.tcpReadHoldingRegisters (.request q)) s = .next
        (tcpSent s .readHoldingRegisters 0x03#8 [hi8 q.start, lo8 q.start, hi8 q.count, lo8 q.count]
          q.start.toNat q.count.toNat) ∧
      exec (.tcpReadInputRegisters (.request q)) s = .next
        (tcpSent s .readInputRegisters 0x04#8 [hi8 q.start, lo8 q.start, hi8 q.count, lo8 q.count]
          q.start.toNat q.count.toNat)) ∧
    (∀ q : CoilReq, exec (.tcpWriteSingleCoil (.request q)) s = .next
      (tcpSent s .writeSingleCoil 0x05#8 [hi8 q.addr, lo8 q.addr, if q.on then 0xFF#8 else 0x00#8, 0x00#8]
        q.addr.toNat (if q.on then 0xFF00 else 0x0000))) ∧
    (∀ q : RegReq, exec (.tcpWriteSingleRegister (.request q)) s = .next
      (tcpSent s .writeSingleRegister 0x06#8 [hi8 q.addr, lo8 q.addr, hi8 q.value, lo8 q.value]
        q.addr.toNat q.value.toNat)) ∧
    (∀ q : CoilsReq, 1 ≤ q.values.length → q.values.length ≤ 1968 →
      exec (.tcpWriteMultipleCoils (.request q)) s = .next
        (tcpSent s .writeMultipleCoils 0x0F#8
          ([hi8 q.start, lo8 q.start] ++ two q.values.length ++
            BitVec.ofNat 8 ((q.values.length + 7) / 8) :: packBits q.values) q.start.toNat q.values.length)) ∧
    (∀ q : RegsReq, 1 ≤ q.values.length → q.values.length ≤ 123 →
      exec (.tcpWriteMultipleRegisters (.request q)) s = .next
        (tcpSent s .writeMultipleRegisters 0x10#8
          ([hi8 q.start, lo8 q.start] ++ two q.values.length ++
            BitVec.ofNat 8 (2 * q.values.length) :: registerBytes q.values) q.start.toNat q.values.length)))

/-- The response form of the sixteen rows (R307 to R309): on the line, a response from the unit asked ends the outstanding
request with the decoded result or the failure result; on the stream, a frame with the request's transaction-id, protocol-id
0 and its unit-id does (R243). Any other frame, one nobody waits for, and one for a request whose channel or connection has
failed (R169, R326), is ignored (log 15). -/
def Obligations.WireResponsesAreJudged : Prop :=
  (∀ (s : State) (unit : Byte) (data : List Byte),
    (∀ ctx, s.rm.state = .awaitingResponse → s.rm.ctx = some ctx → ctx.lost = false → unit = ctx.addr →
      exec (.rtuReadCoils (.response unit data)) s = .next (rtuEnded s ctx (answer ctx .readCoils data)) ∧
      exec (.rtuReadDiscreteInputs (.response unit data)) s =
        .next (rtuEnded s ctx (answer ctx .readDiscreteInputs data)) ∧
      exec (.rtuReadHoldingRegisters (.response unit data)) s =
        .next (rtuEnded s ctx (answer ctx .readHoldingRegisters data)) ∧
      exec (.rtuReadInputRegisters (.response unit data)) s =
        .next (rtuEnded s ctx (answer ctx .readInputRegisters data)) ∧
      exec (.rtuWriteSingleCoil (.response unit data)) s = .next (rtuEnded s ctx (answer ctx .writeSingleCoil data)) ∧
      exec (.rtuWriteSingleRegister (.response unit data)) s =
        .next (rtuEnded s ctx (answer ctx .writeSingleRegister data)) ∧
      exec (.rtuWriteMultipleCoils (.response unit data)) s =
        .next (rtuEnded s ctx (answer ctx .writeMultipleCoils data)) ∧
      exec (.rtuWriteMultipleRegisters (.response unit data)) s =
        .next (rtuEnded s ctx (answer ctx .writeMultipleRegisters data))) ∧
    ((s.rm.state = .idle ∨ s.rm.ctx = none ∨ ∃ ctx, s.rm.ctx = some ctx ∧ (ctx.lost = true ∨ unit ≠ ctx.addr)) →
      exec (.rtuReadCoils (.response unit data)) s = .next s ∧
      exec (.rtuReadDiscreteInputs (.response unit data)) s = .next s ∧
      exec (.rtuReadHoldingRegisters (.response unit data)) s = .next s ∧
      exec (.rtuReadInputRegisters (.response unit data)) s = .next s ∧
      exec (.rtuWriteSingleCoil (.response unit data)) s = .next s ∧
      exec (.rtuWriteSingleRegister (.response unit data)) s = .next s ∧
      exec (.rtuWriteMultipleCoils (.response unit data)) s = .next s ∧
      exec (.rtuWriteMultipleRegisters (.response unit data)) s = .next s)) ∧
  (∀ (s : State) (h : TcpHeader) (data : List Byte),
    (∀ ctx, s.tm.state = .awaitingResponse → s.tm.ctx = some ctx → ctx.lost = false → h = ⟨ctx.txn, 0#16, ctx.addr⟩ →
      exec (.tcpReadCoils (.response h data)) s = .next (tcpEnded s ctx ctx.resp (answer ctx .readCoils data)) ∧
      exec (.tcpReadDiscreteInputs (.response h data)) s =
        .next (tcpEnded s ctx ctx.resp (answer ctx .readDiscreteInputs data)) ∧
      exec (.tcpReadHoldingRegisters (.response h data)) s =
        .next (tcpEnded s ctx ctx.resp (answer ctx .readHoldingRegisters data)) ∧
      exec (.tcpReadInputRegisters (.response h data)) s =
        .next (tcpEnded s ctx ctx.resp (answer ctx .readInputRegisters data)) ∧
      exec (.tcpWriteSingleCoil (.response h data)) s =
        .next (tcpEnded s ctx ctx.resp (answer ctx .writeSingleCoil data)) ∧
      exec (.tcpWriteSingleRegister (.response h data)) s =
        .next (tcpEnded s ctx ctx.resp (answer ctx .writeSingleRegister data)) ∧
      exec (.tcpWriteMultipleCoils (.response h data)) s =
        .next (tcpEnded s ctx ctx.resp (answer ctx .writeMultipleCoils data)) ∧
      exec (.tcpWriteMultipleRegisters (.response h data)) s =
        .next (tcpEnded s ctx ctx.resp (answer ctx .writeMultipleRegisters data))) ∧
    ((s.tm.state = .idle ∨ s.tm.ctx = none ∨ ∃ ctx, s.tm.ctx = some ctx ∧ (ctx.lost = true ∨ h ≠ ⟨ctx.txn, 0#16, ctx.addr⟩)) →
      exec (.tcpReadCoils (.response h data)) s = .next s ∧
      exec (.tcpReadDiscreteInputs (.response h data)) s = .next s ∧
      exec (.tcpReadHoldingRegisters (.response h data)) s = .next s ∧
      exec (.tcpReadInputRegisters (.response h data)) s = .next s ∧
      exec (.tcpWriteSingleCoil (.response h data)) s = .next s ∧
      exec (.tcpWriteSingleRegister (.response h data)) s = .next s ∧
      exec (.tcpWriteMultipleCoils (.response h data)) s = .next s ∧
      exec (.tcpWriteMultipleRegisters (.response h data)) s = .next s))

/-- R307, first case: an accepted exception response ends the outstanding request of its master with the failure result and
surfaces function code and code, whatever the code. A request whose channel or connection has failed takes none (R169, R326;
log 15). -/
def Obligations.ExceptionResponsesAreSurfaced : Prop :=
  ∀ (s : State) (fc code : Byte), fc.getLsbD 7 = false →
    (∀ ctx, s.rm.state = .awaitingResponse → s.rm.ctx = some ctx → ctx.lost = false →
      exec (.exceptionResponseDecode .rtu fc code) s = .next
        (rtuEnded (traced s [⟨.rtuMaster, .modbusException fc code⟩] []) ctx ctx.fc.failure)) ∧
    (∀ ctx, s.tm.state = .awaitingResponse → s.tm.ctx = some ctx → ctx.lost = false →
      exec (.exceptionResponseDecode .tcp fc code) s = .next
        (tcpEnded (traced s [⟨.tcpMaster, .modbusException fc code⟩] []) ctx ctx.resp ctx.fc.failure)) ∧
    (s.rm.state = .idle ∨ (∃ ctx, s.rm.ctx = some ctx ∧ ctx.lost = true) →
      exec (.exceptionResponseDecode .rtu fc code) s = .next s) ∧
    (s.tm.state = .idle ∨ (∃ ctx, s.tm.ctx = some ctx ∧ ctx.lost = true) →
      exec (.exceptionResponseDecode .tcp fc code) s = .next s)

/-! ### The whole machine -/

/-- R368, R55: `Tick` advances the clock and changes nothing else, and no other operation moves the clock; the parameters of
the run and the inputs to come are written by no operation. A step that moves the clock is a `Tick`, and changes nothing but
the clock and the input it takes: no timer fires inside it. -/
def Obligations.OnlyTickMovesTheClock : Prop :=
  (∀ (s : State) (dt : Nat), exec (.tick dt) s = .next { s with now := s.now + dt }) ∧
  (∀ (i : Instr) (s t : State), exec i s = .next t →
    t.params = s.params ∧ t.inbox = s.inbox ∧ (t.now ≠ s.now → ∃ dt, i = .tick dt)) ∧
  (∀ s t : State, step s = .next t → t.now ≠ s.now → ∃ (bytes : List Byte) (rest : List Input) (dt : Nat),
    s.inbox = .operation bytes :: rest ∧ decode bytes = .ok (.tick dt) ∧
    t = { s with inbox := rest, now := s.now + dt })

/-- The four output traces (10_state.md R28, R44, R54 and the model's own result trace) only grow, at the end, in every step:
no operation, configuration write or completing call takes back what was shown. -/
def Obligations.OutputTracesOnlyGrow : Prop :=
  ∀ s t : State, step s = .next t →
    s.out <+: t.out ∧ s.returns <+: t.returns ∧ s.tm.txs <+: t.tm.txs ∧ ∀ c, (s.chan c).tx <+: (t.chan c).tx

/-- R20: instances share no state. An operation of one unit leaves every other unit as it is: the CRC accumulator, the CAN
unit, the host's channel, the slave, the RTU master and the TCP master change only by operations of their own (the two that
own a channel also by the operations on it), and an operation that changes the slave or a master changes no other unit. -/
def Obligations.UnitsShareNoState : Prop :=
  ∀ (i : Instr) (s t : State), exec i s = .next t →
    (t.crcAcc ≠ s.crcAcc → i = .crcInit ∨ ∃ b, i = .crcByte b) ∧
    (t.can ≠ s.can → i.space = spaceOperation ∧ i.opcode ∈ [0x20#8, 0x21#8, 0x22#8, 0x23#8, 0x84#8, 0x85#8, 0x86#8]) ∧
    (t.bs ≠ s.bs → onChannel .host i) ∧
    (t.sl ≠ s.sl → i.space = spaceSlaveExecutes ∨ i.space = spaceSlaveSends ∨
      (i.space = spaceOperation ∧ i.opcode ∈ [0x30#8, 0x32#8, 0x87#8, 0x88#8]) ∨ onChannel .slave i) ∧
    (t.rm ≠ s.rm → i.space = spaceRtuMaster ∨ (∃ fc code, i = .exceptionResponseDecode .rtu fc code) ∨
      (i.space = spaceOperation ∧
        i.opcode ∈ [0x40#8, 0x41#8, 0x42#8, 0x43#8, 0x44#8, 0x45#8, 0x46#8, 0x47#8, 0x89#8]) ∨ onChannel .master i) ∧
    (t.tm ≠ s.tm → i.space = spaceTcpMaster ∨ (∃ fc code, i = .exceptionResponseDecode .tcp fc code) ∨
      (i.space = spaceOperation ∧
        i.opcode ∈ [0x50#8, 0x51#8, 0x52#8, 0x53#8, 0x54#8, 0x55#8, 0x56#8, 0x57#8, 0x58#8, 0x59#8, 0x8A#8, 0x8B#8, 0x8C#8])) ∧
    (t.sl ≠ s.sl → t.crcAcc = s.crcAcc ∧ t.can = s.can ∧ t.bs = s.bs ∧ t.rm = s.rm ∧ t.tm = s.tm ∧ t.now = s.now) ∧
    (t.rm ≠ s.rm → t.crcAcc = s.crcAcc ∧ t.can = s.can ∧ t.bs = s.bs ∧ t.sl = s.sl ∧ t.tm = s.tm ∧ t.now = s.now) ∧
    (t.tm ≠ s.tm → t.crcAcc = s.crcAcc ∧ t.can = s.can ∧ t.bs = s.bs ∧ t.sl = s.sl ∧ t.rm = s.rm ∧ t.now = s.now)

/-- R391, R392: a configuration write with a value outside its legal set raises `error(ConfigurationError)` and changes
nothing; one to a unit that is active changes nothing; any other writes its field. (The model's choices, log 12: the
ConfigurationError for a field other than a unit address, the value tested before the activity, and the refusal of a capacity
below the frames already held.) -/
def Obligations.ConfigurationIsWrittenWhileInactive : Prop :=
  ∀ (s : State) (w : ConfigWrite),
    let answers (b : Bool) : List Return := [⟨w.source, .configure, .bool b⟩]
    (¬ settingLegal w → State.configure s w = traced s [⟨w.source, .error .configurationError⟩] (answers false)) ∧
    (settingLegal w → ¬ unitInactive s w → State.configure s w = traced s [] (answers false)) ∧
    (settingLegal w → unitInactive s w → State.configure s w = traced (settingWritten s w) [] (answers true))

/-! ### Invariants -/

/-- R26, R30, R31, R35, R43, R44: the reset state meets every invariant. (That the unit addresses at reset are legal is the
model's choice of 1, log 4.) -/
def Obligations.ResetIsSafe : Prop := State.reset.ok

/-- Every step keeps every channel within its invariant (R26; R153, R169; R152): the ReadBuffer within its cap, a channel
that is not open empty, an open one legally configured. -/
def Obligations.StepKeepsTheChannels : Prop := ∀ s t : State, s.channelsOk → step s = .next t → t.channelsOk

/-- Every step keeps the CAN unit within its invariant (R30, R31, R32; R207, R208): a started thread has a `stop` waiting for
it exactly when its flag is cleared, among the rest (`State.canOk`). -/
def Obligations.StepKeepsTheCanUnit : Prop := ∀ s t : State, s.canOk → step s = .next t → t.canOk

/-- Every step keeps the slave within its invariant (R35; R231, R232; R262). -/
def Obligations.StepKeepsTheSlave : Prop := ∀ s t : State, s.slaveOk → step s = .next t → t.slaveOk

/-- Every step keeps both masters within their invariant (R43, R44, R45): at most one live context, exactly while a request
is outstanding; a TCP request outstanding without a connection is lost (R326, R328). -/
def Obligations.StepKeepsTheMasters : Prop := ∀ s t : State, s.mastersOk → step s = .next t → t.mastersOk

/-- R167, R208, R369: no suspended call outlives its condition. While a call is due, whatever the inbox holds, a step ends
one suspended call, lets no time pass and takes no input but the choice of a last step; and where the inbox chooses none, as
many steps as calls are due return exactly those calls, a `stop` that still waits for its thread with the thread ended and the
queue emptied, and with nothing else changed (in the model's order, log 10). -/
def Obligations.DueCallsReturnBeforeTheNextInput : Prop :=
  (∀ s : State, ¬ noCallDue s → ∃ t : State, step s = .next t ∧ t.now = s.now ∧
    t.waits.length + t.stops.length + 1 = s.waits.length + s.stops.length ∧
    (t.inbox = s.inbox ∨ ∃ k, s.inbox = .waitReturns k :: t.inbox ∨ s.inbox = .stopReturns k :: t.inbox)) ∧
  (∀ s : State, ¬ namesLastStep s →
    let late := s.stops.filter fun c => decide (c.deadline ≤ s.now)
    let t : State :=
      { s with
        can := if late.any fun c => !c.joined then { s.can with thread := .stopped, q := [] } else s.can
        waits := s.waits.filter fun w => (waitResult s w).isNone
        stops := s.stops.filter fun c => decide (s.now < c.deadline)
        returns := s.returns ++
          (s.waits.filterMap fun w => (waitResult s w).map fun b => returned (.chan w.chan) 0x16#8 (.bool b)) ++
          late.map fun _ => returned .can 0x21#8 .void }
    stepTimes ((s.waits.filter fun w => (waitResult s w).isSome).length + late.length) s = .next t ∧ noCallDue t)

/-- R381 with R8, R9, R12: the reset values and the parameters the spec gives. (MAX_READ_BITS, which the spec leaves open,
is not stated: log 8. The values the spec does not give, `BS.CFG`, `CAN.CFG.bitrate`, `CAN.CFG.prio` and
the three unit addresses, are not stated: log 4, log 5, log 6.) -/
def Obligations.ResetValues : Prop :=
  let s := State.reset
  s.now = 0 ∧ s.out = [] ∧ s.crcAcc = 0xFFFF#16 ∧
  (∀ c, (s.chan c).state = .closed ∧ (s.chan c).rb = [] ∧ (s.chan c).wq = [] ∧ (s.chan c).tx = []) ∧
  s.can.qcap = 1000 ∧ s.can.vcap = 1000 ∧ s.can.vbuf = [] ∧ s.can.q = [] ∧ s.can.devq = [] ∧
  s.can.received = 0 ∧ s.can.dropped = 0 ∧ s.can.running = false ∧ s.can.thread = .stopped ∧ s.can.wake = 0 ∧
  s.sl.gapMs = 50 ∧ s.sl.asm = [] ∧ s.sl.gapArmed = false ∧ s.sl.gapDeadline = 0 ∧
  (∀ a < 256, s.sl.hr[a]? = some 0x0000#16 ∧ s.sl.ir[a]? = some 0x0000#16) ∧
  s.sl.hr.length = 256 ∧ s.sl.ir.length = 256 ∧
  s.rm.state = .idle ∧ s.tm.state = .idle ∧ s.rm.ctx = none ∧ s.tm.ctx = none ∧
  s.rm.timeoutMs = 1000 ∧ s.tm.timeoutMs = 3000 ∧ s.tm.conn = false ∧ s.tm.txn = 0x0000#16 ∧
  s.tm.rxs = [] ∧ s.tm.txs = [] ∧
  s.params.readCap = 65536 ∧ s.params.readKeep = 32768 ∧ s.params.writeChunk = 4096 ∧ s.params.ovfNotifyEvery = 100 ∧
  s.params.canIdleSleepMs = 10 ∧ s.params.joinTimeoutMs = 3000 ∧ s.params.lineTerm = 0x0A#8
end

