-- ==== Sys2Proof/Laws/Bytes.lean ====
section
/-! SUPPORT. Byte order, `last(n, s)` and register runs. -/
namespace Sys2Proof

/-- The value of a field from its two bytes (00_scope.md R13). -/
theorem toNat_be16 (h l : Byte) : (be16 h l).toNat = 256 * h.toNat + l.toNat := by
  have hl := l.isLt
  have happ : (be16 h l).toNat = h.toNat <<< 8 ||| l.toNat := BitVec.toNat_append h l
  rw [happ, ← Nat.shiftLeft_add_eq_or_of_lt (by omega), Nat.shiftLeft_eq]
  omega

/-- The value of a high half. -/
theorem toNat_hi8 (v : Word) : (hi8 v).toNat = v.toNat / 256 := by
  have := v.isLt
  rw [hi8, BitVec.extractLsb'_toNat, Nat.shiftRight_eq_div_pow]
  omega

/-- The value of a low half. -/
theorem toNat_lo8 (v : Word) : (lo8 v).toNat = v.toNat % 256 := by
  rw [lo8, BitVec.extractLsb'_toNat]
  rfl

/-- A word is its two halves. -/
theorem be16_hi8_lo8 (v : Word) : be16 (hi8 v) (lo8 v) = v := by
  apply BitVec.eq_of_toNat_eq
  rw [toNat_be16, toNat_hi8, toNat_lo8]
  omega

/-- The high byte of an assembled word. -/
theorem hi8_be16 (h l : Byte) : hi8 (be16 h l) = h := by
  have := l.isLt; have := h.isLt
  apply BitVec.eq_of_toNat_eq
  rw [toNat_hi8, toNat_be16]
  omega

/-- The low byte of an assembled word. -/
theorem lo8_be16 (h l : Byte) : lo8 (be16 h l) = l := by
  have := l.isLt; have := h.isLt
  apply BitVec.eq_of_toNat_eq
  rw [toNat_lo8, toNat_be16]
  omega

@[simp] theorem length_wordsToBytes (vs : List Word) : (wordsToBytes vs).length = 2 * vs.length := by
  induction vs with
  | nil => rfl
  | cons v vs ih => simp [wordsToBytes, ih]; omega

@[simp] theorem length_lastN {α : Type} (n : Nat) (s : List α) : (lastN n s).length = min n s.length := by
  simp [lastN]; omega

/-- `last(n, s)` is the whole of a sequence that is not longer. -/
theorem lastN_of_length_le {α : Type} (n : Nat) (s : List α) (h : s.length ≤ n) : lastN n s = s := by
  simp [lastN, Nat.sub_eq_zero_of_le h]

end Sys2Proof

namespace Sys2Proof.Machine

/-- A register write keeps the bank's length. -/
@[simp] theorem length_memWrite (bank : List Word) (addr : Nat) (vs : List Word) :
    (memWrite bank addr vs).length = bank.length := by
  induction vs generalizing bank addr with
  | nil => rfl
  | cons v vs ih => simp [memWrite, ih]

/-- A register outside the run written keeps its value. -/
theorem memWrite_outside (bank : List Word) (addr : Nat) (vs : List Word) (a : Nat)
    (h : a < addr ∨ addr + vs.length ≤ a) : (memWrite bank addr vs)[a]? = bank[a]? := by
  induction vs generalizing bank addr with
  | nil => rfl
  | cons v vs ih =>
    simp only [List.length_cons] at h
    rw [memWrite, ih _ _ (by omega), List.getElem?_set_ne (by omega)]

/-- The registers written hold the values, in order. -/
theorem memWrite_inside (bank : List Word) (addr : Nat) (vs : List Word) (i : Nat) (hi : i < vs.length)
    (hb : addr + vs.length ≤ bank.length) : (memWrite bank addr vs)[addr + i]? = vs[i]? := by
  induction vs generalizing bank addr i with
  | nil => simp at hi
  | cons v vs ih =>
    simp only [List.length_cons] at hi hb
    cases i with
    | zero =>
      rw [memWrite, memWrite_outside _ _ _ _ (by omega)]
      simp [show addr < bank.length by omega]
    | succ i =>
      have := ih (bank.set addr v) (addr + 1) i (by omega) (by simp; omega)
      rw [memWrite, show addr + (i + 1) = addr + 1 + i by omega, this]
      simp

end Sys2Proof.Machine
end

