-- ==== Sys2Proof/Laws/Decode.lean ====
section
/-! SUPPORT. The operand readers: each reads back what its encoder wrote, whatever follows. -/
namespace Sys2Proof

/-- The reader `r` answers `a` on the bytes `bs`, whatever follows them. -/
def Reads {α : Type} (r : Rd α) (bs : List Byte) (a : α) : Prop := ∀ rest, r (bs ++ rest) = .ok (a, rest)

theorem reads_pure {α : Type} (a : α) : Reads (Rd.pure a) [] a := fun _ => rfl

theorem reads_bind {α β : Type} {r : Rd α} {f : α → Rd β} {bs bs' : List Byte} {a : α} {b : β} (h : Reads r bs a)
    (h' : Reads (f a) bs' b) : Reads (r.bind f) (bs ++ bs') b := by
  intro rest
  rw [Rd.bind, List.append_assoc, h]
  exact h' rest

theorem reads_map1 {α β : Type} (mk : α → β) {r : Rd α} {bs : List Byte} {a : α} (h : Reads r bs a) :
    Reads (Rd.map1 mk r) bs (mk a) := by
  have := reads_bind (f := fun a => Rd.pure (mk a)) h (reads_pure (mk a))
  rwa [List.append_nil] at this

theorem reads_map2 {α β γ : Type} (mk : α → β → γ) {ra : Rd α} {rb : Rd β} {bs bs' : List Byte} {a : α} {b : β}
    (ha : Reads ra bs a) (hb : Reads rb bs' b) : Reads (Rd.map2 mk ra rb) (bs ++ bs') (mk a b) :=
  reads_bind ha (reads_map1 (mk a) hb)

theorem reads_map3 {α β γ δ : Type} (mk : α → β → γ → δ) {ra : Rd α} {rb : Rd β} {rc : Rd γ}
    {bs bs' bs'' : List Byte} {a : α} {b : β} {c : γ} (ha : Reads ra bs a) (hb : Reads rb bs' b)
    (hc : Reads rc bs'' c) : Reads (Rd.map3 mk ra rb rc) (bs ++ (bs' ++ bs'')) (mk a b c) :=
  reads_bind ha (reads_map2 (mk a) hb hc)

theorem reads_map4 {α β γ δ ε : Type} (mk : α → β → γ → δ → ε) {ra : Rd α} {rb : Rd β} {rc : Rd γ} {rd : Rd δ}
    {bs bs' bs'' bs''' : List Byte} {a : α} {b : β} {c : γ} {d : δ} (ha : Reads ra bs a) (hb : Reads rb bs' b)
    (hc : Reads rc bs'' c) (hd : Reads rd bs''' d) :
    Reads (Rd.map4 mk ra rb rc rd) (bs ++ (bs' ++ (bs'' ++ bs'''))) (mk a b c d) :=
  reads_bind ha (reads_map3 (mk a) hb hc hd)

/-- Several values of one reader, from the concatenation of their bytes. -/
theorem reads_many {α : Type} {r : Rd α} {enc : α → List Byte} (h : ∀ a, Reads r (enc a) a) (as : List α) :
    Reads (Rd.many r as.length) (as.flatMap enc) as := by
  induction as with
  | nil => exact reads_pure []
  | cons a as ih => exact reads_map2 _ (h a) ih

theorem reads_byte (b : Byte) : Reads rdByte (encByte b) b := fun _ => rfl

theorem reads_word (v : Word) : Reads rdWord (encWord v) v := by
  have h := reads_map2 be16 (reads_byte (hi8 v)) (reads_byte (lo8 v))
  rwa [be16_hi8_lo8] at h

/-- The digits of a nat are read back, whatever fuel at least its size they were written with. -/
theorem reads_natFuel (fuel n : Nat) (h : n ≤ fuel) : Reads rdNat (encNatFuel fuel n) n := by
  induction fuel generalizing n with
  | zero =>
    obtain rfl : n = 0 := by omega
    intro rest; rfl
  | succ fuel ih =>
    intro rest
    unfold encNatFuel
    by_cases hn : n < 128
    · rw [if_pos hn]
      have hb : (BitVec.ofNat 8 n).toNat = n := by rw [BitVec.toNat_ofNat]; omega
      simp only [List.cons_append, List.nil_append, rdNat, hb, if_pos hn]
    · rw [if_neg hn]
      have hb : (BitVec.ofNat 8 (128 + n % 128)).toNat = 128 + n % 128 := by rw [BitVec.toNat_ofNat]; omega
      simp only [List.cons_append, rdNat, hb]
      rw [if_neg (by omega), ih (n / 128) (by omega) rest]
      simp only [Except.ok.injEq, Prod.mk.injEq, and_true]
      omega

theorem reads_nat (n : Nat) : Reads rdNat (encNat n) n := reads_natFuel n n (Nat.le_refl n)

theorem reads_pos (n : Nat) (h : 1 ≤ n) : Reads rdPos (encPos n) n := by
  have := reads_map1 (fun n => n + 1) (reads_nat (n - 1))
  rwa [Nat.sub_add_cancel h] at this

theorem reads_bool (b : Bool) : Reads rdBool (encBool b) b := by intro rest; cases b <;> rfl
theorem reads_chan (c : Chan) : Reads rdChan (encChan c) c := by intro rest; cases c <;> rfl
theorem reads_parity (p : Parity) : Reads rdParity (encParity p) p := by intro rest; cases p <;> rfl
theorem reads_openDraw (d : OpenDraw) : Reads rdOpenDraw (encOpenDraw d) d := by intro rest; cases d <;> rfl
theorem reads_deviceError (e : DeviceError) : Reads rdDeviceError (encDeviceError e) e := by intro rest; cases e <;> rfl
theorem reads_link (l : Link) : Reads rdLink (encLink l) l := by intro rest; cases l <;> rfl
theorem reads_frameKind (k : FrameKind) : Reads rdFrameKind (encFrameKind k) k := by intro rest; cases k <;> rfl
theorem reads_exceptionCode (e : ExceptionCode) : Reads rdExceptionCode (encExceptionCode e) e := by
  intro rest; cases e <;> rfl

theorem reads_serialCfg (c : SerialCfg) : Reads rdSerialCfg (encSerialCfg c) c :=
  reads_map4 SerialCfg.mk (reads_nat c.baud) (reads_nat c.dataBits) (reads_parity c.parity) (reads_nat c.stopBits)

/-- A byte written as it stands: the concatenation of its encodings is the sequence itself. -/
theorem flatMap_encByte (bs : List Byte) : bs.flatMap encByte = bs := by
  induction bs with
  | nil => rfl
  | cons b bs ih => rw [List.flatMap_cons, ih]; rfl

theorem flatMap_encWord (vs : List Word) : vs.flatMap encWord = wordsToBytes vs := by
  induction vs with
  | nil => rfl
  | cons v vs ih => rw [List.flatMap_cons, ih]; rfl

theorem reads_bytes (bs : List Byte) : Reads rdBytes (encBytes bs) bs := by
  have h := reads_bind (f := fun n => Rd.many rdByte n) (reads_nat bs.length) (reads_many reads_byte bs)
  rwa [flatMap_encByte] at h

theorem reads_words (vs : List Word) : Reads rdWords (encWords vs) vs := by
  have h := reads_bind (f := fun n => Rd.many rdWord n) (reads_nat vs.length) (reads_many reads_word vs)
  rwa [flatMap_encWord] at h

theorem reads_bools (vs : List Bool) : Reads rdBools (encBools vs) vs :=
  reads_bind (f := fun n => Rd.many rdBool n) (reads_nat vs.length) (reads_many reads_bool vs)

theorem reads_bytes1 (bs : List Byte) (h : bs ≠ []) : Reads rdBytes1 (encBytes1 bs) bs := by
  have hl := List.length_pos_iff.2 h
  have := reads_bind (f := fun n => Rd.many rdByte n) (reads_pos bs.length hl) (reads_many reads_byte bs)
  rwa [flatMap_encByte] at this

theorem reads_canFrame (f : CanFrame) (h : f.wf = true) : Reads rdCanFrame (encCanFrame f) f := by
  have := reads_map4 CanFrame.mk (reads_nat f.id) (reads_bool f.ext) (reads_frameKind f.kind) (reads_bytes f.data)
  have := reads_bind (f := fun f => if f.wf then Rd.pure f else Rd.fail .badOperand) this
    (bs' := []) (b := f) (by rw [if_pos h]; exact reads_pure f)
  rwa [List.append_nil] at this

theorem reads_rtuMsg {Req : Type} {r : Rd Req} {enc : Req → List Byte} (h : ∀ q, Reads r (enc q) q)
    (m : RtuMsg Req) : Reads (rdRtuMsg r) (encRtuMsg enc m) m := by
  cases m with
  | request q => exact reads_bind (reads_bool false) (reads_map1 _ (h q))
  | response unit data => exact reads_bind (reads_bool true) (reads_map2 _ (reads_byte unit) (reads_bytes data))

theorem reads_tcpHeader (h : TcpHeader) : Reads rdTcpHeader (encTcpHeader h) h :=
  reads_map3 TcpHeader.mk (reads_word h.txn) (reads_word h.proto) (reads_byte h.unit)

theorem reads_tcpMsg {Req : Type} {r : Rd Req} {enc : Req → List Byte} (h : ∀ q, Reads r (enc q) q)
    (m : TcpMsg Req) : Reads (rdTcpMsg r) (encTcpMsg enc m) m := by
  cases m with
  | request q => exact reads_bind (reads_bool false) (reads_map1 _ (h q))
  | response hd data => exact reads_bind (reads_bool true) (reads_map2 _ (reads_tcpHeader hd) (reads_bytes data))

theorem reads_readReq (q : ReadReq) : Reads rdReadReq (encReadReq q) q :=
  reads_map2 ReadReq.mk (reads_word q.start) (reads_word q.count)
theorem reads_coilReq (q : CoilReq) : Reads rdCoilReq (encCoilReq q) q :=
  reads_map2 CoilReq.mk (reads_word q.addr) (reads_bool q.on)
theorem reads_regReq (q : RegReq) : Reads rdRegReq (encRegReq q) q :=
  reads_map2 RegReq.mk (reads_word q.addr) (reads_word q.value)
theorem reads_coilsReq (q : CoilsReq) : Reads rdCoilsReq (encCoilsReq q) q :=
  reads_map2 CoilsReq.mk (reads_word q.start) (reads_bools q.values)
theorem reads_regsReq (q : RegsReq) : Reads rdRegsReq (encRegsReq q) q :=
  reads_map2 RegsReq.mk (reads_word q.start) (reads_words q.values)

end Sys2Proof
end

