-- ==== Sys2Proof/Laws/State.lean ====
section
/-! SUPPORT. The small lemmas of the state's named updates: one per update and field, true by rfl (or by cases on the
channel), so that no proof unfolds a record update. -/
namespace Sys2Proof.Machine

@[simp] theorem State.notify_crcAcc (s : State) (src : Source) (n : Notice) : (s.notify src n).crcAcc = s.crcAcc := rfl
@[simp] theorem State.notify_bs (s : State) (src : Source) (n : Notice) : (s.notify src n).bs = s.bs := rfl
@[simp] theorem State.notify_can (s : State) (src : Source) (n : Notice) : (s.notify src n).can = s.can := rfl
@[simp] theorem State.notify_sl (s : State) (src : Source) (n : Notice) : (s.notify src n).sl = s.sl := rfl
@[simp] theorem State.notify_rm (s : State) (src : Source) (n : Notice) : (s.notify src n).rm = s.rm := rfl
@[simp] theorem State.notify_tm (s : State) (src : Source) (n : Notice) : (s.notify src n).tm = s.tm := rfl
@[simp] theorem State.notify_now (s : State) (src : Source) (n : Notice) : (s.notify src n).now = s.now := rfl
@[simp] theorem State.notify_out (s : State) (src : Source) (n : Notice) : (s.notify src n).out = s.out ++ [⟨src, n⟩] := rfl
@[simp] theorem State.notify_params (s : State) (src : Source) (n : Notice) : (s.notify src n).params = s.params := rfl
@[simp] theorem State.notify_returns (s : State) (src : Source) (n : Notice) : (s.notify src n).returns = s.returns := rfl
@[simp] theorem State.notify_waits (s : State) (src : Source) (n : Notice) : (s.notify src n).waits = s.waits := rfl
@[simp] theorem State.notify_stops (s : State) (src : Source) (n : Notice) : (s.notify src n).stops = s.stops := rfl
@[simp] theorem State.notify_inbox (s : State) (src : Source) (n : Notice) : (s.notify src n).inbox = s.inbox := rfl

@[simp] theorem State.ret_crcAcc (s : State) (src : Source) (i : Byte) (r : Result) : (s.ret src i r).crcAcc = s.crcAcc := rfl
@[simp] theorem State.ret_bs (s : State) (src : Source) (i : Byte) (r : Result) : (s.ret src i r).bs = s.bs := rfl
@[simp] theorem State.ret_can (s : State) (src : Source) (i : Byte) (r : Result) : (s.ret src i r).can = s.can := rfl
@[simp] theorem State.ret_sl (s : State) (src : Source) (i : Byte) (r : Result) : (s.ret src i r).sl = s.sl := rfl
@[simp] theorem State.ret_rm (s : State) (src : Source) (i : Byte) (r : Result) : (s.ret src i r).rm = s.rm := rfl
@[simp] theorem State.ret_tm (s : State) (src : Source) (i : Byte) (r : Result) : (s.ret src i r).tm = s.tm := rfl
@[simp] theorem State.ret_now (s : State) (src : Source) (i : Byte) (r : Result) : (s.ret src i r).now = s.now := rfl
@[simp] theorem State.ret_out (s : State) (src : Source) (i : Byte) (r : Result) : (s.ret src i r).out = s.out := rfl
@[simp] theorem State.ret_params (s : State) (src : Source) (i : Byte) (r : Result) : (s.ret src i r).params = s.params := rfl
@[simp] theorem State.ret_returns (s : State) (src : Source) (i : Byte) (r : Result) : (s.ret src i r).returns = s.returns ++ [⟨src, .operation i, r⟩] := rfl
@[simp] theorem State.ret_waits (s : State) (src : Source) (i : Byte) (r : Result) : (s.ret src i r).waits = s.waits := rfl
@[simp] theorem State.ret_stops (s : State) (src : Source) (i : Byte) (r : Result) : (s.ret src i r).stops = s.stops := rfl
@[simp] theorem State.ret_inbox (s : State) (src : Source) (i : Byte) (r : Result) : (s.ret src i r).inbox = s.inbox := rfl

@[simp] theorem State.retConfigure_crcAcc (s : State) (w : ConfigWrite) (b : Bool) : (s.retConfigure w b).crcAcc = s.crcAcc := rfl
@[simp] theorem State.retConfigure_bs (s : State) (w : ConfigWrite) (b : Bool) : (s.retConfigure w b).bs = s.bs := rfl
@[simp] theorem State.retConfigure_can (s : State) (w : ConfigWrite) (b : Bool) : (s.retConfigure w b).can = s.can := rfl
@[simp] theorem State.retConfigure_sl (s : State) (w : ConfigWrite) (b : Bool) : (s.retConfigure w b).sl = s.sl := rfl
@[simp] theorem State.retConfigure_rm (s : State) (w : ConfigWrite) (b : Bool) : (s.retConfigure w b).rm = s.rm := rfl
@[simp] theorem State.retConfigure_tm (s : State) (w : ConfigWrite) (b : Bool) : (s.retConfigure w b).tm = s.tm := rfl
@[simp] theorem State.retConfigure_now (s : State) (w : ConfigWrite) (b : Bool) : (s.retConfigure w b).now = s.now := rfl
@[simp] theorem State.retConfigure_out (s : State) (w : ConfigWrite) (b : Bool) : (s.retConfigure w b).out = s.out := rfl
@[simp] theorem State.retConfigure_params (s : State) (w : ConfigWrite) (b : Bool) : (s.retConfigure w b).params = s.params := rfl
@[simp] theorem State.retConfigure_returns (s : State) (w : ConfigWrite) (b : Bool) : (s.retConfigure w b).returns = s.returns ++ [⟨w.source, .configure, .bool b⟩] := rfl
@[simp] theorem State.retConfigure_waits (s : State) (w : ConfigWrite) (b : Bool) : (s.retConfigure w b).waits = s.waits := rfl
@[simp] theorem State.retConfigure_stops (s : State) (w : ConfigWrite) (b : Bool) : (s.retConfigure w b).stops = s.stops := rfl
@[simp] theorem State.retConfigure_inbox (s : State) (w : ConfigWrite) (b : Bool) : (s.retConfigure w b).inbox = s.inbox := rfl

@[simp] theorem State.setHolding_crcAcc (s : State) (bank : List Word) : (s.setHolding bank).crcAcc = s.crcAcc := rfl
@[simp] theorem State.setHolding_bs (s : State) (bank : List Word) : (s.setHolding bank).bs = s.bs := rfl
@[simp] theorem State.setHolding_can (s : State) (bank : List Word) : (s.setHolding bank).can = s.can := rfl
@[simp] theorem State.setHolding_sl (s : State) (bank : List Word) : (s.setHolding bank).sl = { s.sl with hr := bank } := rfl
@[simp] theorem State.setHolding_rm (s : State) (bank : List Word) : (s.setHolding bank).rm = s.rm := rfl
@[simp] theorem State.setHolding_tm (s : State) (bank : List Word) : (s.setHolding bank).tm = s.tm := rfl
@[simp] theorem State.setHolding_now (s : State) (bank : List Word) : (s.setHolding bank).now = s.now := rfl
@[simp] theorem State.setHolding_out (s : State) (bank : List Word) : (s.setHolding bank).out = s.out := rfl
@[simp] theorem State.setHolding_params (s : State) (bank : List Word) : (s.setHolding bank).params = s.params := rfl
@[simp] theorem State.setHolding_returns (s : State) (bank : List Word) : (s.setHolding bank).returns = s.returns := rfl
@[simp] theorem State.setHolding_waits (s : State) (bank : List Word) : (s.setHolding bank).waits = s.waits := rfl
@[simp] theorem State.setHolding_stops (s : State) (bank : List Word) : (s.setHolding bank).stops = s.stops := rfl
@[simp] theorem State.setHolding_inbox (s : State) (bank : List Word) : (s.setHolding bank).inbox = s.inbox := rfl

@[simp] theorem State.setInput_crcAcc (s : State) (bank : List Word) : (s.setInput bank).crcAcc = s.crcAcc := rfl
@[simp] theorem State.setInput_bs (s : State) (bank : List Word) : (s.setInput bank).bs = s.bs := rfl
@[simp] theorem State.setInput_can (s : State) (bank : List Word) : (s.setInput bank).can = s.can := rfl
@[simp] theorem State.setInput_sl (s : State) (bank : List Word) : (s.setInput bank).sl = { s.sl with ir := bank } := rfl
@[simp] theorem State.setInput_rm (s : State) (bank : List Word) : (s.setInput bank).rm = s.rm := rfl
@[simp] theorem State.setInput_tm (s : State) (bank : List Word) : (s.setInput bank).tm = s.tm := rfl
@[simp] theorem State.setInput_now (s : State) (bank : List Word) : (s.setInput bank).now = s.now := rfl
@[simp] theorem State.setInput_out (s : State) (bank : List Word) : (s.setInput bank).out = s.out := rfl
@[simp] theorem State.setInput_params (s : State) (bank : List Word) : (s.setInput bank).params = s.params := rfl
@[simp] theorem State.setInput_returns (s : State) (bank : List Word) : (s.setInput bank).returns = s.returns := rfl
@[simp] theorem State.setInput_waits (s : State) (bank : List Word) : (s.setInput bank).waits = s.waits := rfl
@[simp] theorem State.setInput_stops (s : State) (bank : List Word) : (s.setInput bank).stops = s.stops := rfl
@[simp] theorem State.setInput_inbox (s : State) (bank : List Word) : (s.setInput bank).inbox = s.inbox := rfl

@[simp] theorem State.respond_crcAcc (s : State) (body : List Byte) : (s.respond body).crcAcc = s.crcAcc := rfl
@[simp] theorem State.respond_bs (s : State) (body : List Byte) : (s.respond body).bs = s.bs := rfl
@[simp] theorem State.respond_can (s : State) (body : List Byte) : (s.respond body).can = s.can := rfl
@[simp] theorem State.respond_sl (s : State) (body : List Byte) : (s.respond body).sl = { s.sl with bs := s.sl.bs.write (sealFrame body) } := rfl
@[simp] theorem State.respond_rm (s : State) (body : List Byte) : (s.respond body).rm = s.rm := rfl
@[simp] theorem State.respond_tm (s : State) (body : List Byte) : (s.respond body).tm = s.tm := rfl
@[simp] theorem State.respond_now (s : State) (body : List Byte) : (s.respond body).now = s.now := rfl
@[simp] theorem State.respond_out (s : State) (body : List Byte) : (s.respond body).out = s.out := rfl
@[simp] theorem State.respond_params (s : State) (body : List Byte) : (s.respond body).params = s.params := rfl
@[simp] theorem State.respond_returns (s : State) (body : List Byte) : (s.respond body).returns = s.returns := rfl
@[simp] theorem State.respond_waits (s : State) (body : List Byte) : (s.respond body).waits = s.waits := rfl
@[simp] theorem State.respond_stops (s : State) (body : List Byte) : (s.respond body).stops = s.stops := rfl
@[simp] theorem State.respond_inbox (s : State) (body : List Byte) : (s.respond body).inbox = s.inbox := rfl

@[simp] theorem State.raiseException_crcAcc (s : State) (unit fc : Byte) (code : ExceptionCode) : (s.raiseException unit fc code).crcAcc = s.crcAcc := rfl
@[simp] theorem State.raiseException_bs (s : State) (unit fc : Byte) (code : ExceptionCode) : (s.raiseException unit fc code).bs = s.bs := rfl
@[simp] theorem State.raiseException_can (s : State) (unit fc : Byte) (code : ExceptionCode) : (s.raiseException unit fc code).can = s.can := rfl
@[simp] theorem State.raiseException_sl (s : State) (unit fc : Byte) (code : ExceptionCode) : (s.raiseException unit fc code).sl = { s.sl with bs := s.sl.bs.write (sealFrame [unit, fc ||| 0x80#8, code.toByte]) } := rfl
@[simp] theorem State.raiseException_rm (s : State) (unit fc : Byte) (code : ExceptionCode) : (s.raiseException unit fc code).rm = s.rm := rfl
@[simp] theorem State.raiseException_tm (s : State) (unit fc : Byte) (code : ExceptionCode) : (s.raiseException unit fc code).tm = s.tm := rfl
@[simp] theorem State.raiseException_now (s : State) (unit fc : Byte) (code : ExceptionCode) : (s.raiseException unit fc code).now = s.now := rfl
@[simp] theorem State.raiseException_out (s : State) (unit fc : Byte) (code : ExceptionCode) : (s.raiseException unit fc code).out = s.out ++ [⟨.slave, .modbusException (fc &&& 0x7F#8) code.toByte⟩] := rfl
@[simp] theorem State.raiseException_params (s : State) (unit fc : Byte) (code : ExceptionCode) : (s.raiseException unit fc code).params = s.params := rfl
@[simp] theorem State.raiseException_returns (s : State) (unit fc : Byte) (code : ExceptionCode) : (s.raiseException unit fc code).returns = s.returns := rfl
@[simp] theorem State.raiseException_waits (s : State) (unit fc : Byte) (code : ExceptionCode) : (s.raiseException unit fc code).waits = s.waits := rfl
@[simp] theorem State.raiseException_stops (s : State) (unit fc : Byte) (code : ExceptionCode) : (s.raiseException unit fc code).stops = s.stops := rfl
@[simp] theorem State.raiseException_inbox (s : State) (unit fc : Byte) (code : ExceptionCode) : (s.raiseException unit fc code).inbox = s.inbox := rfl

@[simp] theorem State.setChan_crcAcc (s : State) (c : Chan) (ch : Channel) : (s.setChan c ch).crcAcc = s.crcAcc := by
  cases c <;> rfl
@[simp] theorem State.setChan_can (s : State) (c : Chan) (ch : Channel) : (s.setChan c ch).can = s.can := by
  cases c <;> rfl
@[simp] theorem State.setChan_tm (s : State) (c : Chan) (ch : Channel) : (s.setChan c ch).tm = s.tm := by
  cases c <;> rfl
@[simp] theorem State.setChan_now (s : State) (c : Chan) (ch : Channel) : (s.setChan c ch).now = s.now := by
  cases c <;> rfl
@[simp] theorem State.setChan_out (s : State) (c : Chan) (ch : Channel) : (s.setChan c ch).out = s.out := by
  cases c <;> rfl
@[simp] theorem State.setChan_params (s : State) (c : Chan) (ch : Channel) : (s.setChan c ch).params = s.params := by
  cases c <;> rfl
@[simp] theorem State.setChan_returns (s : State) (c : Chan) (ch : Channel) : (s.setChan c ch).returns = s.returns := by
  cases c <;> rfl
@[simp] theorem State.setChan_waits (s : State) (c : Chan) (ch : Channel) : (s.setChan c ch).waits = s.waits := by
  cases c <;> rfl
@[simp] theorem State.setChan_stops (s : State) (c : Chan) (ch : Channel) : (s.setChan c ch).stops = s.stops := by
  cases c <;> rfl
@[simp] theorem State.setChan_inbox (s : State) (c : Chan) (ch : Channel) : (s.setChan c ch).inbox = s.inbox := by
  cases c <;> rfl

@[simp] theorem State.setChan_host (s : State) (ch : Channel) : s.setChan .host ch = { s with bs := ch } := rfl
@[simp] theorem State.setChan_slave (s : State) (ch : Channel) :
    s.setChan .slave ch = { s with sl := { s.sl with bs := ch } } := rfl
@[simp] theorem State.setChan_master (s : State) (ch : Channel) :
    s.setChan .master ch = { s with rm := { s.rm with bs := ch } } := rfl
@[simp] theorem State.chan_host (s : State) : s.chan .host = s.bs := rfl
@[simp] theorem State.chan_slave (s : State) : s.chan .slave = s.sl.bs := rfl
@[simp] theorem State.chan_master (s : State) : s.chan .master = s.rm.bs := rfl

/-- Reading back the channel that was written. -/
@[simp] theorem State.chan_setChan_same (s : State) (c : Chan) (ch : Channel) : (s.setChan c ch).chan c = ch := by
  cases c <;> rfl

/-- Writing one channel leaves the others. -/
theorem State.chan_setChan_ne (s : State) {c d : Chan} (ch : Channel) (h : d ≠ c) :
    (s.setChan c ch).chan d = s.chan d := by
  cases c <;> cases d <;> first | rfl | exact absurd rfl h

/-- Writing back the channel that is there changes nothing. -/
@[simp] theorem State.setChan_chan (s : State) (c : Chan) : s.setChan c (s.chan c) = s := by
  cases c <;> rfl

@[simp] theorem State.notify_chan (s : State) (src : Source) (n : Notice) (c : Chan) :
    (s.notify src n).chan c = s.chan c := by cases c <;> rfl
@[simp] theorem State.ret_chan (s : State) (src : Source) (i : Byte) (r : Result) (c : Chan) :
    (s.ret src i r).chan c = s.chan c := by cases c <;> rfl

/-! A request whose channel has failed: only its context changes. -/

@[simp] theorem State.loseRequest_crcAcc (s : State) (c : Chan) : (s.loseRequest c).crcAcc = s.crcAcc := by cases c <;> rfl
@[simp] theorem State.loseRequest_bs (s : State) (c : Chan) : (s.loseRequest c).bs = s.bs := by cases c <;> rfl
@[simp] theorem State.loseRequest_can (s : State) (c : Chan) : (s.loseRequest c).can = s.can := by cases c <;> rfl
@[simp] theorem State.loseRequest_sl (s : State) (c : Chan) : (s.loseRequest c).sl = s.sl := by cases c <;> rfl
@[simp] theorem State.loseRequest_tm (s : State) (c : Chan) : (s.loseRequest c).tm = s.tm := by cases c <;> rfl
@[simp] theorem State.loseRequest_now (s : State) (c : Chan) : (s.loseRequest c).now = s.now := by cases c <;> rfl
@[simp] theorem State.loseRequest_out (s : State) (c : Chan) : (s.loseRequest c).out = s.out := by cases c <;> rfl
@[simp] theorem State.loseRequest_params (s : State) (c : Chan) : (s.loseRequest c).params = s.params := by cases c <;> rfl
@[simp] theorem State.loseRequest_returns (s : State) (c : Chan) : (s.loseRequest c).returns = s.returns := by cases c <;> rfl
@[simp] theorem State.loseRequest_waits (s : State) (c : Chan) : (s.loseRequest c).waits = s.waits := by cases c <;> rfl
@[simp] theorem State.loseRequest_stops (s : State) (c : Chan) : (s.loseRequest c).stops = s.stops := by cases c <;> rfl
@[simp] theorem State.loseRequest_inbox (s : State) (c : Chan) : (s.loseRequest c).inbox = s.inbox := by cases c <;> rfl
@[simp] theorem State.loseRequest_chan (s : State) (c d : Chan) : (s.loseRequest c).chan d = s.chan d := by
  cases c <;> cases d <;> rfl

/-! The last steps of suspended calls. -/

@[simp] theorem State.endWait_crcAcc (s : State) (w : Wait) (b : Bool) (rest : List Wait) : (s.endWait w b rest).crcAcc = s.crcAcc := rfl
@[simp] theorem State.endWait_bs (s : State) (w : Wait) (b : Bool) (rest : List Wait) : (s.endWait w b rest).bs = s.bs := rfl
@[simp] theorem State.endWait_can (s : State) (w : Wait) (b : Bool) (rest : List Wait) : (s.endWait w b rest).can = s.can := rfl
@[simp] theorem State.endWait_sl (s : State) (w : Wait) (b : Bool) (rest : List Wait) : (s.endWait w b rest).sl = s.sl := rfl
@[simp] theorem State.endWait_rm (s : State) (w : Wait) (b : Bool) (rest : List Wait) : (s.endWait w b rest).rm = s.rm := rfl
@[simp] theorem State.endWait_tm (s : State) (w : Wait) (b : Bool) (rest : List Wait) : (s.endWait w b rest).tm = s.tm := rfl
@[simp] theorem State.endWait_now (s : State) (w : Wait) (b : Bool) (rest : List Wait) : (s.endWait w b rest).now = s.now := rfl
@[simp] theorem State.endWait_out (s : State) (w : Wait) (b : Bool) (rest : List Wait) : (s.endWait w b rest).out = s.out := rfl
@[simp] theorem State.endWait_params (s : State) (w : Wait) (b : Bool) (rest : List Wait) : (s.endWait w b rest).params = s.params := rfl
@[simp] theorem State.endWait_stops (s : State) (w : Wait) (b : Bool) (rest : List Wait) : (s.endWait w b rest).stops = s.stops := rfl
@[simp] theorem State.endWait_inbox (s : State) (w : Wait) (b : Bool) (rest : List Wait) : (s.endWait w b rest).inbox = s.inbox := rfl
@[simp] theorem State.endWait_waits (s : State) (w : Wait) (b : Bool) (rest : List Wait) : (s.endWait w b rest).waits = rest := rfl
@[simp] theorem State.endWait_returns (s : State) (w : Wait) (b : Bool) (rest : List Wait) :
    (s.endWait w b rest).returns = s.returns ++ [⟨.chan w.chan, .operation 0x16#8, .bool b⟩] := rfl
@[simp] theorem State.endWait_chan (s : State) (w : Wait) (b : Bool) (rest : List Wait) (c : Chan) :
    (s.endWait w b rest).chan c = s.chan c := by cases c <;> rfl

/-- A `stop` whose path was started again leaves the CAN unit alone. -/
theorem Can.halted_of_joined (can : Can) (c : StopCall) (h : c.joined = true) : can.halted c = can := by
  simp [Can.halted, h]

/-- A `stop` that still waits for its thread ends it and empties the queue. -/
theorem Can.halted_of_waiting (can : Can) (c : StopCall) (h : c.joined = false) :
    can.halted c = { can with thread := .stopped, q := [] } := by
  simp [Can.halted, h]

@[simp] theorem State.endStop_crcAcc (s : State) (c : StopCall) (rest : List StopCall) : (s.endStop c rest).crcAcc = s.crcAcc := rfl
@[simp] theorem State.endStop_bs (s : State) (c : StopCall) (rest : List StopCall) : (s.endStop c rest).bs = s.bs := rfl
@[simp] theorem State.endStop_sl (s : State) (c : StopCall) (rest : List StopCall) : (s.endStop c rest).sl = s.sl := rfl
@[simp] theorem State.endStop_rm (s : State) (c : StopCall) (rest : List StopCall) : (s.endStop c rest).rm = s.rm := rfl
@[simp] theorem State.endStop_tm (s : State) (c : StopCall) (rest : List StopCall) : (s.endStop c rest).tm = s.tm := rfl
@[simp] theorem State.endStop_now (s : State) (c : StopCall) (rest : List StopCall) : (s.endStop c rest).now = s.now := rfl
@[simp] theorem State.endStop_out (s : State) (c : StopCall) (rest : List StopCall) : (s.endStop c rest).out = s.out := rfl
@[simp] theorem State.endStop_params (s : State) (c : StopCall) (rest : List StopCall) : (s.endStop c rest).params = s.params := rfl
@[simp] theorem State.endStop_waits (s : State) (c : StopCall) (rest : List StopCall) : (s.endStop c rest).waits = s.waits := rfl
@[simp] theorem State.endStop_inbox (s : State) (c : StopCall) (rest : List StopCall) : (s.endStop c rest).inbox = s.inbox := rfl
@[simp] theorem State.endStop_can (s : State) (c : StopCall) (rest : List StopCall) : (s.endStop c rest).can = s.can.halted c := rfl
@[simp] theorem State.endStop_stops (s : State) (c : StopCall) (rest : List StopCall) : (s.endStop c rest).stops = rest := rfl
@[simp] theorem State.endStop_returns (s : State) (c : StopCall) (rest : List StopCall) :
    (s.endStop c rest).returns = s.returns ++ [⟨.can, .operation 0x21#8, .void⟩] := rfl
@[simp] theorem State.endStop_chan (s : State) (c : StopCall) (rest : List StopCall) (ch : Chan) :
    (s.endStop c rest).chan ch = s.chan ch := by cases ch <;> rfl

/-! The fields of the RTU slave and master that a channel write leaves. -/

@[simp] theorem State.setChan_sl_hr (s : State) (c : Chan) (ch : Channel) : (s.setChan c ch).sl.hr = s.sl.hr := by
  cases c <;> rfl
@[simp] theorem State.setChan_sl_ir (s : State) (c : Chan) (ch : Channel) : (s.setChan c ch).sl.ir = s.sl.ir := by
  cases c <;> rfl
@[simp] theorem State.setChan_sl_addr (s : State) (c : Chan) (ch : Channel) : (s.setChan c ch).sl.addr = s.sl.addr := by
  cases c <;> rfl
@[simp] theorem State.setChan_sl_gapMs (s : State) (c : Chan) (ch : Channel) : (s.setChan c ch).sl.gapMs = s.sl.gapMs := by
  cases c <;> rfl
@[simp] theorem State.setChan_sl_asm (s : State) (c : Chan) (ch : Channel) : (s.setChan c ch).sl.asm = s.sl.asm := by
  cases c <;> rfl
@[simp] theorem State.setChan_sl_gapArmed (s : State) (c : Chan) (ch : Channel) :
    (s.setChan c ch).sl.gapArmed = s.sl.gapArmed := by cases c <;> rfl
@[simp] theorem State.setChan_sl_gapDeadline (s : State) (c : Chan) (ch : Channel) :
    (s.setChan c ch).sl.gapDeadline = s.sl.gapDeadline := by cases c <;> rfl
@[simp] theorem State.setChan_rm_unit (s : State) (c : Chan) (ch : Channel) : (s.setChan c ch).rm.unit = s.rm.unit := by
  cases c <;> rfl
@[simp] theorem State.setChan_rm_timeoutMs (s : State) (c : Chan) (ch : Channel) :
    (s.setChan c ch).rm.timeoutMs = s.rm.timeoutMs := by cases c <;> rfl
@[simp] theorem State.setChan_rm_state (s : State) (c : Chan) (ch : Channel) :
    (s.setChan c ch).rm.state = s.rm.state := by cases c <;> rfl
@[simp] theorem State.setChan_rm_ctx (s : State) (c : Chan) (ch : Channel) : (s.setChan c ch).rm.ctx = s.rm.ctx := by
  cases c <;> rfl

end Sys2Proof.Machine
end

