-- ==== Sys2Proof/Laws/Masters.lean ====
section
/-! SUPPORT. What the shared operations of the two masters do: when a request is legal, when it is sent and when it is
refused, what `Judge` answers, and which frames the loop of `TcpPoll` consumes. -/
namespace Sys2Proof.Machine

theorem legalUnit_iff (n : Nat) : legalUnit n = true ↔ 1 ≤ n ∧ n ≤ 247 := by
  rw [legalUnit, Bool.and_eq_true, decide_eq_true_iff, decide_eq_true_iff]
  rfl

theorem readRequest_legal (fc : FunctionCode) (max start count : Nat) :
    (readRequest fc max start count).legal = true ↔ start ≤ 65535 ∧ count ≤ 65535 ∧ 1 ≤ count ∧ count ≤ max := by
  simp [readRequest, fitsWord, and_assoc]

theorem coilRequest_legal (addr : Nat) (on : Bool) : (coilRequest addr on).legal = true ↔ addr ≤ 65535 := by
  simp [coilRequest, fitsWord]

theorem registerRequest_legal (addr : Nat) (value : Word) :
    (registerRequest addr value).legal = true ↔ addr ≤ 65535 := by
  simp [registerRequest, fitsWord]

theorem coilsRequest_legal (start : Nat) (values : List Bool) :
    (coilsRequest start values).legal = true ↔
      start ≤ 65535 ∧ 1 ≤ values.length ∧ values.length ≤ Config.maxWriteCoils := by
  simp [coilsRequest, fitsWord, and_assoc]

theorem registersRequest_legal (start : Nat) (values : List Word) :
    (registersRequest start values).legal = true ↔
      start ≤ 65535 ∧ 1 ≤ values.length ∧ values.length ≤ Config.maxWriteRegs := by
  simp [registersRequest, fitsWord, and_assoc]

theorem rtuMaster_refuses_iff (m : RtuMaster) (q : Request) :
    m.refuses q = true ↔ ¬ (m.state = .idle ∧ m.bs.state = .opened ∧ q.legal = true) := by
  simp only [RtuMaster.refuses, RtuMaster.isIdle, Channel.isOpen]
  cases m.state <;> cases m.bs.state <;> cases q.legal <;> decide

theorem tcpMaster_refuses_iff (m : TcpMaster) (q : Request) :
    m.refuses q = true ↔ ¬ (m.state = .idle ∧ m.conn = true ∧ q.legal = true) := by
  simp only [TcpMaster.refuses, TcpMaster.isIdle]
  cases m.state <;> cases m.conn <;> cases q.legal <;> decide

/-- A request operation of the RTU master is sent or refused, and nothing else. -/
theorem rtuCall_cases (s : State) (q : Request) :
    (s.rm.state = .idle ∧ s.rm.bs.state = .opened ∧ q.legal = true ∧ s.rtuCall q = s.rtuSend q) ∨
    (¬ (s.rm.state = .idle ∧ s.rm.bs.state = .opened ∧ q.legal = true) ∧
      s.rtuCall q = s.ret .rtuMaster (0x40#8 + q.fc.slot) q.fc.failure) := by
  by_cases h : s.rm.refuses q = true
  · exact .inr ⟨(rtuMaster_refuses_iff _ _).1 h, by simp [State.rtuCall, h]⟩
  · have := (rtuMaster_refuses_iff s.rm q).not.1 h
    obtain ⟨h1, h2, h3⟩ := not_not.1 this
    exact .inl ⟨h1, h2, h3, by simp [State.rtuCall, h]⟩

/-- A request operation of the TCP master is sent or refused, and nothing else. -/
theorem tcpCall_cases (s : State) (q : Request) :
    (s.tm.state = .idle ∧ s.tm.conn = true ∧ q.legal = true ∧ s.tcpCall q = s.tcpSend q) ∨
    (¬ (s.tm.state = .idle ∧ s.tm.conn = true ∧ q.legal = true) ∧
      s.tcpCall q = s.ret .tcpMaster (0x50#8 + q.fc.slot) q.fc.failure) := by
  by_cases h : s.tm.refuses q = true
  · exact .inr ⟨(tcpMaster_refuses_iff _ _).1 h, by simp [State.tcpCall, h]⟩
  · have := (tcpMaster_refuses_iff s.tm q).not.1 h
    obtain ⟨h1, h2, h3⟩ := not_not.1 this
    exact .inl ⟨h1, h2, h3, by simp [State.tcpCall, h]⟩

/-- An exception response with its code is judged a protocol exception, whatever was asked (R307). -/
theorem judge_exception (ctx : TransactionContext) (fc code : Byte) (more : List Byte) (h : exceptionBit fc = true) :
    judge ctx fc (code :: more) = ⟨some (fc &&& 0x7F#8, code), .failure (.protocolException code)⟩ := by
  simp [judge, pduClass, h]

/-- A response that is no exception and has another function code is a failure (R307). -/
theorem judge_other (ctx : TransactionContext) (fc : Byte) (data : List Byte) (h : exceptionBit fc = false)
    (hf : fc ≠ ctx.fc.code) : judge ctx fc data = ⟨none, .failure .checksumError⟩ := by
  simp [judge, pduClass, h, hf]

theorem exceptionBit_code (fc : FunctionCode) : exceptionBit fc.code = false := by cases fc <;> decide

theorem code_injective (a b : FunctionCode) (h : a.code = b.code) : a = b := by
  revert h; cases a <;> cases b <;> decide

/-- A response with the function code asked is decoded (R307, R308). -/
theorem judge_same (ctx : TransactionContext) (data : List Byte) :
    judge ctx ctx.fc.code data =
      ⟨none, match decodeResponse ctx data with
        | some r => .success r
        | none => .failure .checksumError⟩ := by
  simp only [judge, pduClass, exceptionBit_code]
  cases decodeResponse ctx data <;> simp

/-! ### The frames of a stream -/

/-- A frame that `mbapSplit` cuts is cut from whatever follows it, and is not empty (R241). -/
theorem mbapSplit_cuts {buf frame rest : List Byte} (h : mbapSplit buf = some (frame, rest)) :
    buf = frame ++ rest ∧ 6 ≤ frame.length ∧ ∀ more, mbapSplit (frame ++ more) = some (frame, more) := by
  simp only [mbapSplit] at h
  split at h
  · cases h
  · rename_i h6
    split at h
    · cases h
    · rename_i hn
      have hl : ∀ i, i < 6 → ∀ more, (frame ++ more).getD i 0#8 = buf.getD i 0#8 := by
        intro i hi more
        obtain ⟨rfl, -⟩ := Prod.mk.inj (Option.some.inj h)
        rw [List.getD_append _ _ _ _ (by simp; omega)]
        simp only [List.getD_eq_getElem?_getD]
        rw [List.getElem?_take_of_lt (by omega)]
      obtain ⟨hf, hr⟩ := Prod.mk.inj (Option.some.inj h)
      have hlen : frame.length = 6 + (be16 (buf.getD 4 0#8) (buf.getD 5 0#8)).toNat := by
        rw [← hf, List.length_take]; omega
      refine ⟨by rw [← hf, ← hr, List.take_append_drop], by omega, fun more => ?_⟩
      simp only [mbapSplit, hl 4 (by omega), hl 5 (by omega), List.length_append, ← hlen]
      rw [if_neg (by omega), if_neg (by omega), List.take_left', List.drop_left'] <;> rfl

/-- Everything the loop of `TcpPoll` can do (R323): it consumes whole frames that are not accepted, up to the first accepted one
or to a part of a frame. -/
theorem mbapScanFuel_cases (accept : List Byte → Option (Byte × List Byte)) (fuel : Nat) :
    ∀ buf : List Byte, buf.length ≤ fuel → ∃ frames : List (List Byte),
      (∀ f ∈ frames, (∀ more, mbapSplit (f ++ more) = some (f, more)) ∧ accept f = none) ∧
      ((∃ part, buf = frames.flatten ++ part ∧ mbapSplit part = none ∧ mbapScanFuel accept fuel buf = ⟨none, part⟩) ∨
        ∃ good rest m, buf = frames.flatten ++ good ++ rest ∧ (∀ more, mbapSplit (good ++ more) = some (good, more)) ∧
          accept good = some m ∧ mbapScanFuel accept fuel buf = ⟨some m, rest⟩) := by
  induction fuel with
  | zero =>
    intro buf h
    obtain rfl := List.eq_nil_of_length_eq_zero (Nat.le_zero.1 h)
    exact ⟨[], by simp, .inl ⟨[], rfl, rfl, rfl⟩⟩
  | succ fuel ih =>
    intro buf h
    cases hs : mbapSplit buf with
    | none => exact ⟨[], by simp, .inl ⟨buf, rfl, hs, by simp [mbapScanFuel, hs]⟩⟩
    | some p =>
      obtain ⟨frame, rest⟩ := p
      obtain ⟨rfl, h6, hc⟩ := mbapSplit_cuts hs
      cases ha : accept frame with
      | some m => exact ⟨[], by simp, .inr ⟨frame, rest, m, by simp, hc, ha, by simp [mbapScanFuel, hs, ha]⟩⟩
      | none =>
        rw [List.length_append] at h
        obtain ⟨frames, hf, hr⟩ := ih rest (by omega)
        have hloop : mbapScanFuel accept (fuel + 1) (frame ++ rest) = mbapScanFuel accept fuel rest := by
          simp [mbapScanFuel, hs, ha]
        rw [hloop]
        refine ⟨frame :: frames, ?_, ?_⟩
        · rintro f (_ | ⟨_, hm⟩)
          · exact ⟨hc, ha⟩
          · exact hf f hm
        · rcases hr with ⟨part, hb, hp, hw⟩ | ⟨good, rest', m, hb, hg, ham, hw⟩
          · exact .inl ⟨part, by rw [hb, List.flatten_cons, List.append_assoc], hp, hw⟩
          · exact .inr ⟨good, rest', m, by rw [hb, List.flatten_cons]; simp only [List.append_assoc], hg, ham, hw⟩

/-- A request whose connection stands scans for its own response (R243). -/
theorem TransactionContext.scan_of_live (ctx : TransactionContext) (h : ctx.lost = false) (buf : List Byte) :
    ctx.scan buf = mbapScan buf ctx.txn ctx.addr := by
  have : ctx.accept = (mbapMatch · ctx.txn ctx.addr) := by
    funext f; simp [TransactionContext.accept, h]
  rw [TransactionContext.scan, this, mbapScan]

/-- A request that has lost its connection consumes every whole frame and finds none (R243, R326). -/
theorem TransactionContext.scan_of_lost (ctx : TransactionContext) (h : ctx.lost = true) (buf : List Byte) :
    ∃ (frames : List (List Byte)) (part : List Byte), buf = frames.flatten ++ part ∧
      (∀ f ∈ frames, ∀ more, mbapSplit (f ++ more) = some (f, more)) ∧ mbapSplit part = none ∧
      ctx.scan buf = ⟨none, part⟩ := by
  obtain ⟨frames, hf, ⟨part, hb, hp, hw⟩ | ⟨good, _, m, -, -, ha, -⟩⟩ :=
    mbapScanFuel_cases ctx.accept buf.length buf (Nat.le_refl _)
  · exact ⟨frames, part, hb, fun f hm => (hf f hm).1, hp, hw⟩
  · simp [TransactionContext.accept, h] at ha

end Sys2Proof.Machine
end

