-- ==== Sys2Proof/Laws/Slave.lean ====
section
/-! SUPPORT. The slave: the operation a frame decodes to is what the slave executes, and what executing one frame can
change. -/
namespace Sys2Proof.Machine

/-- The operation of an accepted frame, executed as an input, is what the slave does with the frame. -/
theorem exec_slaveInstr (p : RtuPdu) (s : State) :
    exec (slaveInstr p) s = .next (if p.unit = s.sl.addr then s.slaveRun p else s) := by
  unfold slaveInstr State.slaveRun
  split <;> simp_all [exec, execSlvReadHoldingRegisters, execSlvReadInputRegisters, execSlvWriteSingleRegister,
    execSlvWriteMultipleRegisters, execSlvUnsupportedFunction]

/-- The three things an execution of one frame can change: the holding bank (its length stays), the bytes queued on the
slave's channel (they only grow) and the notifications (they only grow). -/
def SlaveEffect (s t : State) : Prop :=
  ∃ (bank : List Word) (body : List Byte) (notes : List Notification),
    bank.length = s.sl.hr.length ∧
      t = { s with
        sl := { s.sl with hr := bank, bs := s.sl.bs.write (sealFrame body) }
        out := s.out ++ notes }

theorem slaveEffect_respond (s : State) (body : List Byte) (notes : List Notification) (bank : List Word)
    (hb : bank.length = s.sl.hr.length) :
    SlaveEffect s ({ s with sl := { s.sl with hr := bank }, out := s.out ++ notes }.respond body) :=
  ⟨bank, body, notes, hb, rfl⟩

theorem slaveEffect_raise (s : State) (unit fc : Byte) (code : ExceptionCode) :
    SlaveEffect s (s.raiseException unit fc code) :=
  ⟨s.sl.hr, [unit, fc ||| 0x80#8, code.toByte], [⟨.slave, .modbusException (fc &&& 0x7F#8) code.toByte⟩], rfl, rfl⟩

/-- Executing one accepted frame. -/
theorem slaveRun_effect (s : State) (p : RtuPdu) : SlaveEffect s (s.slaveRun p) := by
  unfold State.slaveRun
  split
  · simp only [State.slaveReadHolding, State.slaveRead]
    repeat' split
    all_goals first
      | exact slaveEffect_raise _ _ _ _
      | exact slaveEffect_respond s _ [_] s.sl.hr rfl
  · simp only [State.slaveReadInput, State.slaveRead]
    repeat' split
    all_goals first
      | exact slaveEffect_raise _ _ _ _
      | exact slaveEffect_respond s _ [_] s.sl.hr rfl
  · simp only [State.slaveWriteSingle]
    repeat' split
    all_goals first
      | exact slaveEffect_raise _ _ _ _
      | exact slaveEffect_respond s _ [_] _ (by simp)
  · simp only [State.slaveWriteMultiple]
    repeat' split
    all_goals first
      | exact slaveEffect_raise _ _ _ _
      | exact slaveEffect_respond s _ _ _ (by simp)
  · exact slaveEffect_raise _ _ _ _

end Sys2Proof.Machine
end

