-- ==== Sys2Proof/Laws/HandedOut.lean ====
section
/-! SUPPORT. Which operations hand CAN frames to the host: the two reads, and no other (`exec_handsNone`). -/
namespace Sys2Proof.Machine

/-- How many CAN frames a result hands to the host. -/
def Result.frameCount : Result → Nat
  | .frameOrNone (some _) => 1
  | .frames fs => fs.length
  | _ => 0

/-- `t` has the results of `s` and more, none of which hands a frame to the host. -/
def HandsNone (s t : State) : Prop :=
  ∃ results, t.returns = s.returns ++ results ∧ ∀ r ∈ results, r.result.frameCount = 0

/-- No further result. -/
theorem HandsNone.same {s t : State} (h : t.returns = s.returns) : HandsNone s t := ⟨[], by simp [h], by simp⟩

/-- One further result that is no frame. -/
theorem HandsNone.ret {s t : State} (h : HandsNone s t) (src : Source) (i : Byte) (r : Result) (hr : r.frameCount = 0) :
    HandsNone s (t.ret src i r) := by
  obtain ⟨results, ht, hz⟩ := h
  refine ⟨results ++ [⟨src, .operation i, r⟩], by simp [ht], ?_⟩
  simpa [or_imp, forall_and, hr] using hz

theorem failure_frameCount (fc : FunctionCode) : fc.failure.frameCount = 0 := by cases fc <;> rfl

theorem decodeResponse_frameCount (ctx : TransactionContext) (data : List Byte) (r : Result)
    (h : decodeResponse ctx data = some r) : r.frameCount = 0 := by
  have hb : ∀ n f, (dataBlock n data).map f = some r → (∀ b, (f b).frameCount = 0) → r.frameCount = 0 := by
    intro n f h hf
    obtain ⟨b, -, rfl⟩ := Option.map_eq_some_iff.1 h
    exact hf b
  have he : ∀ p : Prop, [Decidable p] → (if p then some (Result.bool true) else none) = some r → r.frameCount = 0 := by
    intro p _ h; split at h <;> cases h; rfl
  unfold decodeResponse at h
  dsimp only at h
  cases hf : ctx.fc <;> rw [hf] at h <;> first | exact he _ h | exact hb _ _ h fun _ => rfl

/-- A finished request of a master hands out no frame. -/
theorem judge_frameCount (ctx : TransactionContext) (fc : Byte) (data : List Byte) :
    (resultOf ctx (judge ctx fc data).outcome).frameCount = 0 := by
  unfold judge
  split
  · exact failure_frameCount _
  · split
    · exact failure_frameCount _
    · split
      · exact failure_frameCount _
      · split
        · exact decodeResponse_frameCount ctx _ _ ‹_›
        · exact failure_frameCount _

theorem handsNone_rtuConclude (s t : State) (ctx : TransactionContext) (fc : Byte) (data : List Byte)
    (h : t.returns = s.returns) : HandsNone s (t.rtuConclude ctx fc data) := by
  unfold State.rtuConclude
  dsimp only
  split <;> exact (HandsNone.same (by exact h)).ret _ _ _ (judge_frameCount ..)

theorem handsNone_tcpConclude (s t : State) (ctx : TransactionContext) (rest : List Byte) (fc : Byte) (data : List Byte)
    (h : t.returns = s.returns) : HandsNone s (t.tcpConclude ctx rest fc data) := by
  unfold State.tcpConclude
  dsimp only
  split <;> exact (HandsNone.same (by exact h)).ret _ _ _ (judge_frameCount ..)

theorem handsNone_slave {s t : State} (h : SlaveEffect s t) : HandsNone s t := by
  obtain ⟨_, _, _, -, rfl⟩ := h
  exact .same rfl

theorem handsNone_rtuCall (s : State) (q : Request) : HandsNone s (s.rtuCall q) := by
  unfold State.rtuCall
  split
  · exact (HandsNone.same rfl).ret _ _ _ (failure_frameCount _)
  · exact .same rfl

theorem handsNone_tcpCall (s : State) (q : Request) : HandsNone s (s.tcpCall q) := by
  unfold State.tcpCall
  split
  · exact (HandsNone.same rfl).ret _ _ _ (failure_frameCount _)
  · exact .same rfl

theorem handsNone_rtuWire {Req : Type} (s : State) (fc : FunctionCode) (request : Req → Request) (m : RtuMsg Req) :
    HandsNone s (s.rtuWire fc request m) := by
  unfold State.rtuWire
  split
  · split <;> exact .same rfl
  · split
    · split
      · exact handsNone_rtuConclude s s _ _ _ rfl
      · exact .same rfl
    · exact .same rfl

theorem handsNone_tcpWire {Req : Type} (s : State) (fc : FunctionCode) (request : Req → Request) (m : TcpMsg Req) :
    HandsNone s (s.tcpWire fc request m) := by
  unfold State.tcpWire
  split
  · split <;> exact .same rfl
  · split
    · split
      · exact handsNone_tcpConclude s s _ _ _ _ rfl
      · exact .same rfl
    · exact .same rfl

/-- No operation but `readFrame` and `readAllFrames` hands a CAN frame to the host. -/
theorem exec_handsNone (i : Instr) (s t : State) (h : exec i s = .next t) (h1 : i ≠ .canReadFrame)
    (h2 : i ≠ .canReadAllFrames) : HandsNone s t := by
  cases i
  case canReadFrame => exact absurd rfl h1
  case canReadAllFrames => exact absurd rfl h2
  all_goals obtain rfl := Host.Outcome.next.inj h
  case slvReadHoldingRegisters unit data =>
    split
    · exact handsNone_slave (slaveRun_effect s ⟨unit, 3#8, data⟩)
    · exact .same rfl
  case slvReadInputRegisters unit data =>
    split
    · exact handsNone_slave (slaveRun_effect s ⟨unit, 4#8, data⟩)
    · exact .same rfl
  case slvWriteSingleRegister unit data =>
    split
    · exact handsNone_slave (slaveRun_effect s ⟨unit, 6#8, data⟩)
    · exact .same rfl
  case slvWriteMultipleRegisters unit data =>
    split
    · exact handsNone_slave (slaveRun_effect s ⟨unit, 16#8, data⟩)
    · exact .same rfl
  case slvUnsupportedFunction => split <;> exact .same rfl
  case exceptionResponseBuild => exact .same rfl
  case exceptionResponseDecode link fc code =>
    cases link
    · show HandsNone s (s.rtuException fc code)
      unfold State.rtuException
      split
      · split
        · exact .same rfl
        · exact handsNone_rtuConclude s s _ _ _ rfl
      · exact .same rfl
    · show HandsNone s (s.tcpException fc code)
      unfold State.tcpException
      split
      · split
        · exact .same rfl
        · exact handsNone_tcpConclude s s _ _ _ _ rfl
      · exact .same rfl
  case bsOpen c cfg draw =>
    split
    · exact (HandsNone.same rfl).ret _ _ _ rfl
    · split
      · exact (HandsNone.same (by rfl)).ret _ _ _ rfl
      · split <;> exact (HandsNone.same (by cases c <;> rfl)).ret _ _ _ rfl
  case bsClose c => split <;> exact (HandsNone.same (by cases c <;> rfl)).ret _ _ _ rfl
  case bsWrite c bytes => exact (HandsNone.same (by cases c <;> rfl)).ret _ _ _ rfl
  case bsReadAvailable c => exact (HandsNone.same (by cases c <;> rfl)).ret _ _ _ rfl
  case bsReadLine c =>
    split
    · exact (HandsNone.same (by cases c <;> rfl)).ret _ _ _ rfl
    · exact (HandsNone.same rfl).ret _ _ _ rfl
  case bsBytesAvailable c => exact (HandsNone.same rfl).ret _ _ _ rfl
  case bsWaitReady c n =>
    unfold State.callWait
    split
    · exact (HandsNone.same rfl).ret _ _ _ rfl
    · exact .same rfl
  case bsRxBytes c bytes =>
    split
    · split <;> exact .same (by cases c <;> rfl)
    · exact .same rfl
  case bsTxDrain c k => split <;> exact .same (by cases c <;> rfl)
  case bsChanError c k => split <;> exact .same (by cases c <;> rfl)
  case canStart => split <;> exact (HandsNone.same rfl).ret _ _ _ rfl
  case canStop =>
    split
    · exact .same rfl
    · exact (HandsNone.same rfl).ret _ _ _ rfl
  case canNormalDrain => split <;> exact .same rfl
  case canThreadStep =>
    split
    · split
      · unfold State.threadTurn
        split
        · dsimp only; split <;> exact .same rfl
        · exact .same rfl
      · exact .same rfl
    · exact .same rfl
  case slSetHoldingRegister => split <;> exact (HandsNone.same rfl).ret _ _ _ rfl
  case slSetInputRegister => split <;> exact (HandsNone.same rfl).ret _ _ _ rfl
  case slSlaveRx => split <;> exact .same rfl
  case slGapFire =>
    split
    · unfold State.slaveProcess
      split
      · exact .same rfl
      · exact handsNone_slave (s := { s with sl := { s.sl with asm := [], gapArmed := false } }) (slaveRun_effect _ _)
    · exact .same rfl
  case rmMasterPoll =>
    split
    · exact .same rfl
    · split
      · exact handsNone_rtuConclude s _ _ _ _ rfl
      · unfold State.rtuDeadline
        dsimp only
        split
        · exact (HandsNone.same rfl).ret _ _ _ (failure_frameCount _)
        · exact .same rfl
  case tmTcpPoll =>
    split
    · exact .same rfl
    · dsimp only
      split
      · exact handsNone_tcpConclude s _ _ _ _ _ rfl
      · unfold State.tcpDeadline
        split
        · exact (HandsNone.same rfl).ret _ _ _ (failure_frameCount _)
        · exact .same rfl
  case tmConnect =>
    split
    · exact (HandsNone.same rfl).ret _ _ _ rfl
    · split <;> exact (HandsNone.same (by rfl)).ret _ _ _ rfl
  case tmDisconnect => split <;> exact (HandsNone.same (by rfl)).ret _ _ _ rfl
  case tmTcpRx => split <;> exact .same rfl
  case tmTcpPeerClose => split <;> exact .same rfl
  all_goals first
    | exact .same rfl
    | exact handsNone_rtuWire ..
    | exact handsNone_tcpWire ..
    | exact handsNone_rtuCall ..
    | exact handsNone_tcpCall ..
    | exact (HandsNone.same rfl).ret _ _ _ rfl

end Sys2Proof.Machine
end

