-- ==== Sys2Proof/Laws/Effect.lean ====
section
/-! SUPPORT. What one operation can do, said once: `ChannelMove` for a channel, `Effect` for the whole state, and the
inversion `exec_effect` that later proofs cite instead of unfolding the meanings. -/
namespace Sys2Proof.Machine

/-- The ways an operation moves a channel. -/
inductive ChannelMove (p : Params) (ch : Channel) : Channel → Prop
  | stays : ChannelMove p ch ch
  | opens (cfg : SerialCfg) (h : ch.isOpen = false) (legal : legalSerialCfg cfg = true) : ChannelMove p ch (ch.openWith cfg)
  | fails (h : ch.isOpen = false) : ChannelMove p ch { ch with state := .errored }
  | closes : ChannelMove p ch (ch.shut .closed)
  | breaks (h : ch.isOpen = true) : ChannelMove p ch (ch.shut .errored)
  | queues (bytes : List Byte) (h : ch.isOpen = true) : ChannelMove p ch { ch with wq := ch.wq ++ bytes }
  | takes (rb : List Byte) (h : ch.isOpen = true) (suffix : rb <:+ ch.rb) : ChannelMove p ch { ch with rb := rb }
  | receives (rb : List Byte) (h : ch.isOpen = true) (cap : rb.length ≤ p.readCap) : ChannelMove p ch { ch with rb := rb }
  | drains (k : Nat) (h : ch.isOpen = true) :
      ChannelMove p ch { ch with tx := ch.tx ++ ch.wq.take k, wq := ch.wq.drop k }
  | sends (bytes : List Byte) (h : ch.isOpen = true) : ChannelMove p ch { ch with rb := [], wq := ch.wq ++ bytes }

theorem channelMove_write (p : Params) (ch : Channel) (bytes : List Byte) : ChannelMove p ch (ch.write bytes) := by
  unfold Channel.write
  split
  · exact .queues bytes ‹_›
  · exact .stays

theorem channelMove_drained (p : Params) (ch : Channel) : ChannelMove p ch ch.drained := by
  unfold Channel.drained
  split
  · exact .takes [] ‹_› (List.nil_suffix)
  · exact .stays

/-- What `readLine` leaves is an end of the buffer. -/
theorem splitLine_suffix (term : Byte) (bs line rest : List Byte) (h : splitLine term bs = some (line, rest)) :
    rest <:+ bs := by
  induction bs generalizing line rest with
  | nil => cases h
  | cons b bs ih =>
    unfold splitLine at h
    split at h
    · cases h; exact List.suffix_cons b _
    · cases hs : splitLine term bs with
      | none => rw [hs] at h; cases h
      | some r =>
        rw [hs] at h
        cases h
        exact (ih _ _ hs).trans (List.suffix_cons b bs)

/-- The ways an operation changes the state. -/
inductive Effect (s : State) : State → Prop
  | quiet (notes : List Notification) (results : List Return) :
      Effect s { s with out := s.out ++ notes, returns := s.returns ++ results }
  | crc (acc : Word) (results : List Return) : Effect s { s with crcAcc := acc, returns := s.returns ++ results }
  | chan (c : Chan) (ch : Channel) (notes : List Notification) (results : List Return)
      (move : ChannelMove s.params (s.chan c) ch) :
      Effect s { s.setChan c ch with out := s.out ++ notes, returns := s.returns ++ results }
  | chanBreaks (c : Chan) (notes : List Notification) (h : (s.chan c).isOpen = true) :
      Effect s { (s.setChan c ((s.chan c).shut .errored)).loseRequest c with out := s.out ++ notes }
  | waits (w : Wait) (h : s.waitOutcome w = none) : Effect s { s with waits := s.waits ++ [w] }
  | canStarts (results : List Return) (h : s.can.started = false) :
      Effect s { s with
        can := { s.can with q := [], received := 0, dropped := 0, running := true, thread := .active }
        stops := s.stops.map StopCall.join
        returns := s.returns ++ results }
  | canStops (h : s.can.started = true) :
      Effect s { s with can := { s.can with running := false }, stops := s.stops ++ [⟨s.now + s.params.joinTimeoutMs, false⟩] }
  | canReads (fs : List CanFrame) (results : List Return) (suffix : fs <:+ s.can.activeBuffer)
      (handed : (results.map fun r => r.result.frameCount).sum + fs.length = s.can.activeBuffer.length) :
      Effect s { s with can := s.can.setActiveBuffer fs, returns := s.returns ++ results }
  | canArrives (f : CanFrame) : Effect s { s with can := { s.can with devq := s.can.devq ++ [f] } }
  | canDrains (notes : List Notification) (h : s.can.started = false) :
      Effect s { s with
        can := { s.can with vbuf := lastN s.can.vcap (s.can.vbuf ++ s.can.devq), devq := [] }
        out := s.out ++ notes }
  | canPushes (f : CanFrame) (rest : List CanFrame) (notes : List Notification) (hs : s.can.started = true)
      (hr : s.can.running = true) (hd : s.can.devq = f :: rest) :
      Effect s { s with can := { s.can.enqueue f with devq := rest, thread := .active }, out := s.out ++ notes }
  | canSleeps (hs : s.can.started = true) (hr : s.can.running = true) :
      Effect s { s with can := { s.can with thread := .sleeping, wake := s.now + s.params.canIdleSleepMs } }
  | canEnds (hs : s.can.started = true) (hr : s.can.running = false) :
      Effect s { s with can := { s.can with thread := .stopped } }
  | slaveTakes (h : s.sl.rxEnabled = true) :
      Effect s { s with
        sl := { s.sl with
          bs := { s.sl.bs with rb := [] }
          asm := s.sl.asm ++ s.sl.bs.rb
          gapArmed := true
          gapDeadline := s.now + s.sl.gapMs } }
  | slaveRuns (t : State) (h : SlaveEffect s t) : Effect s t
  | slaveDiscards (h : s.sl.gapExpired s.now = true) :
      Effect s { s with sl := { s.sl with asm := [], gapArmed := false } }
  | slaveFires (t : State) (h : s.sl.gapExpired s.now = true)
      (run : SlaveEffect { s with sl := { s.sl with asm := [], gapArmed := false } } t) : Effect s t
  | holding (bank : List Word) (results : List Return) (h : bank.length = s.sl.hr.length) :
      Effect s { s with sl := { s.sl with hr := bank }, returns := s.returns ++ results }
  | input (bank : List Word) (results : List Return) (h : bank.length = s.sl.ir.length) :
      Effect s { s with sl := { s.sl with ir := bank }, returns := s.returns ++ results }
  | rtuSends (q : Request) (hi : s.rm.isIdle = true) (ho : s.rm.bs.isOpen = true) : Effect s (s.rtuSend q)
  | rtuGathers (ctx : TransactionContext) (h : s.rm.pending = some ctx) : Effect s (s.rtuGather ctx)
  | rtuEnds (bs : Channel) (notes : List Notification) (results : List Return)
      (move : bs = s.rm.bs ∨ bs = s.rm.bs.drained) :
      Effect s { s with
        rm := { s.rm with bs := bs, ctx := none, state := .idle }
        out := s.out ++ notes
        returns := s.returns ++ results }
  | tcpSends (q : Request) (hi : s.tm.isIdle = true) (hc : s.tm.conn = true) : Effect s (s.tcpSend q)
  | tcpGathers (ctx : TransactionContext) (rest : List Byte) (h : s.tm.pending = some ctx) :
      Effect s (s.tcpGather ctx rest)
  | tcpEnds (rxs : List Byte) (notes : List Notification) (results : List Return) :
      Effect s { s with
        tm := { s.tm with ctx := none, state := .idle, rxs := rxs }
        out := s.out ++ notes
        returns := s.returns ++ results }
  | tcpLinks (conn : Bool) (rxs : List Byte) (notes : List Notification) (results : List Return)
      (h : conn = true ∨ conn = s.tm.conn) :
      Effect s { s with
        tm := { s.tm with conn := conn, rxs := rxs }
        out := s.out ++ notes
        returns := s.returns ++ results }
  | tcpDrops (notes : List Notification) (results : List Return) :
      Effect s { s.tcpDrop with out := s.out ++ notes, returns := s.returns ++ results }
  | ticks (dt : Nat) : Effect s { s with now := s.now + dt }

/-- Nothing changed. -/
theorem Effect.same (s : State) : Effect s s := by
  have h := Effect.quiet (s := s) [] []
  simpa using h

/-- Only a result. -/
theorem Effect.answers (s : State) (src : Source) (i : Byte) (r : Result) : Effect s (s.ret src i r) := by
  have h := Effect.quiet (s := s) [] [⟨src, .operation i, r⟩]
  simpa [State.ret] using h

/-- A channel move with its notifications and results. -/
theorem Effect.ofChan {s t : State} (c : Chan) (ch : Channel) (notes : List Notification) (results : List Return)
    (move : ChannelMove s.params (s.chan c) ch)
    (ht : t = { s.setChan c ch with out := s.out ++ notes, returns := s.returns ++ results }) : Effect s t :=
  ht ▸ .chan c ch notes results move

theorem effect_rtuCall (s : State) (q : Request) : Effect s (s.rtuCall q) := by
  rcases rtuCall_cases s q with ⟨h1, h2, -, h⟩ | ⟨-, h⟩
  · rw [h]; exact .rtuSends q (by simp [RtuMaster.isIdle, h1]) (by simp [Channel.isOpen, h2])
  · rw [h]; exact .answers s _ _ _

theorem effect_tcpCall (s : State) (q : Request) : Effect s (s.tcpCall q) := by
  rcases tcpCall_cases s q with ⟨h1, h2, -, h⟩ | ⟨-, h⟩
  · rw [h]; exact .tcpSends q (by simp [TcpMaster.isIdle, h1]) h2
  · rw [h]; exact .answers s _ _ _

/-- A finished request of the RTU master, whatever the judgement. -/
theorem rtuConclude_form (s : State) (ctx : TransactionContext) (fc : Byte) (data : List Byte) :
    ∃ notes results, s.rtuConclude ctx fc data =
      { s with rm := { s.rm with ctx := none, state := .idle }, out := s.out ++ notes, returns := s.returns ++ results } := by
  unfold State.rtuConclude
  cases h : (judge ctx fc data).exception with
  | none => exact ⟨[], [_], by simp only [h, List.append_nil]; rfl⟩
  | some e => exact ⟨[_], [_], by simp only [h]; rfl⟩

/-- A finished request of the TCP master, whatever the judgement. -/
theorem tcpConclude_form (s : State) (ctx : TransactionContext) (rest : List Byte) (fc : Byte) (data : List Byte) :
    ∃ notes results, s.tcpConclude ctx rest fc data =
      { s with
        tm := { s.tm with ctx := none, state := .idle, rxs := rest ++ s.tm.rxs }
        out := s.out ++ notes
        returns := s.returns ++ results } := by
  unfold State.tcpConclude
  cases h : (judge ctx fc data).exception with
  | none => exact ⟨[], [_], by simp only [h, List.append_nil]; rfl⟩
  | some e => exact ⟨[_], [_], by simp only [h]; rfl⟩

theorem effect_rtuConclude (s : State) (ctx : TransactionContext) (fc : Byte) (data : List Byte) :
    Effect s (s.rtuConclude ctx fc data) := by
  obtain ⟨notes, results, h⟩ := rtuConclude_form s ctx fc data
  rw [h]; exact .rtuEnds s.rm.bs notes results (.inl rfl)

theorem effect_tcpConclude (s : State) (ctx : TransactionContext) (rest : List Byte) (fc : Byte) (data : List Byte) :
    Effect s (s.tcpConclude ctx rest fc data) := by
  obtain ⟨notes, results, h⟩ := tcpConclude_form s ctx rest fc data
  rw [h]; exact .tcpEnds _ notes results

theorem effect_rtuWire {Req : Type} (s : State) (fc : FunctionCode) (request : Req → Request) (m : RtuMsg Req) :
    Effect s (s.rtuWire fc request m) := by
  cases m with
  | request q =>
    by_cases h : s.rm.refuses (request q) = true
    · simp only [State.rtuWire, h, if_true]; exact .same s
    · obtain ⟨h1, h2, -⟩ := not_not.1 ((rtuMaster_refuses_iff _ _).not.1 h)
      simp only [State.rtuWire, h]
      exact .rtuSends _ (by simp [RtuMaster.isIdle, h1]) (by simp [Channel.isOpen, h2])
  | response unit data =>
    simp only [State.rtuWire]
    split
    · split
      · exact effect_rtuConclude s _ _ _
      · exact .same s
    · exact .same s

theorem effect_tcpWire {Req : Type} (s : State) (fc : FunctionCode) (request : Req → Request) (m : TcpMsg Req) :
    Effect s (s.tcpWire fc request m) := by
  cases m with
  | request q =>
    by_cases h : s.tm.refuses (request q) = true
    · simp only [State.tcpWire, h, if_true]; exact .same s
    · obtain ⟨h1, h2, -⟩ := not_not.1 ((tcpMaster_refuses_iff _ _).not.1 h)
      simp only [State.tcpWire, h]
      exact .tcpSends _ (by simp [TcpMaster.isIdle, h1]) h2
  | response hd data =>
    simp only [State.tcpWire]
    split
    · split
      · exact effect_tcpConclude s _ _ _ _
      · exact .same s
    · exact .same s

theorem effect_rmMasterPoll (s t : State) (h : exec .rmMasterPoll s = .next t) : Effect s t := by
  simp only [exec, execRmMasterPoll, Host.Outcome.next.injEq] at h
  subst h
  split
  · exact .same s
  · rename_i ctx hp
    split
    · obtain ⟨notes, results, h⟩ := rtuConclude_form (s.rtuGather ctx) ctx _ _
      rw [h]; exact .rtuEnds s.rm.bs.drained notes results (.inr rfl)
    · unfold State.rtuDeadline
      split
      · have h := Effect.rtuEnds (s := s) s.rm.bs.drained []
          [⟨.rtuMaster, .operation (0x40#8 + ctx.fc.slot), ctx.fc.failure⟩] (.inr rfl)
        rw [List.append_nil] at h; exact h
      · exact .rtuGathers ctx hp

theorem effect_tmTcpPoll (s t : State) (h : exec .tmTcpPoll s = .next t) : Effect s t := by
  simp only [exec, execTmTcpPoll, Host.Outcome.next.injEq] at h
  subst h
  split
  · exact .same s
  · rename_i ctx hp
    split
    · obtain ⟨notes, results, h⟩ := tcpConclude_form
        (s.tcpGather ctx (ctx.scan (ctx.resp ++ s.tm.rxs)).rest) ctx
        (ctx.scan (ctx.resp ++ s.tm.rxs)).rest _ _
      rw [h]; exact .tcpEnds _ notes results
    · unfold State.tcpDeadline
      split
      · have h := Effect.tcpEnds (s := s) ((ctx.scan (ctx.resp ++ s.tm.rxs)).rest ++ []) []
          [⟨.tcpMaster, .operation (0x50#8 + ctx.fc.slot), ctx.fc.failure⟩]
        rw [List.append_nil s.out] at h; exact h
      · exact .tcpGathers ctx _ hp

/-- An operation of the slave on an accepted or foreign frame. -/
theorem effect_slaveInstr (p : RtuPdu) (s t : State) (h : exec (slaveInstr p) s = .next t) : Effect s t := by
  rw [exec_slaveInstr, Host.Outcome.next.injEq] at h
  subst h
  split
  · exact .slaveRuns _ (slaveRun_effect s p)
  · exact .same s

theorem effect_bsOpen (c : Chan) (cfg : SerialCfg) (draw : OpenDraw) (s t : State)
    (h : exec (.bsOpen c cfg draw) s = .next t) : Effect s t := by
  simp only [exec, execBsOpen, Host.Outcome.next.injEq] at h
  subst h
  split
  · exact .answers s _ _ _
  · rename_i ho
    have ho : (s.chan c).isOpen = false := by simpa using ho
    split
    · exact .quiet [_] [_]
    · rename_i hl
      have hl : legalSerialCfg cfg = true := by simpa using hl
      split
      · exact .ofChan c _ [⟨.chan c, .connected⟩] [⟨.chan c, .operation 0x10#8, .bool true⟩] (.opens cfg ho hl)
          (by cases c <;> rfl)
      · rename_i e he
        exact .ofChan c _ [⟨.chan c, .error e⟩] [⟨.chan c, .operation 0x10#8, .bool false⟩] (.fails ho)
          (by cases c <;> rfl)

theorem effect_bsClose (c : Chan) (s t : State) (h : exec (.bsClose c) s = .next t) : Effect s t := by
  simp only [exec, execBsClose, Host.Outcome.next.injEq] at h
  subst h
  split
  · exact .ofChan c _ [⟨.chan c, .disconnected⟩] [⟨.chan c, .operation 0x11#8, .void⟩] .closes (by cases c <;> rfl)
  · exact .ofChan c _ [] [⟨.chan c, .operation 0x11#8, .void⟩] .closes (by cases c <;> simp [State.ret])

theorem effect_bsReadLine (c : Chan) (s t : State) (h : exec (.bsReadLine c) s = .next t) : Effect s t := by
  simp only [exec, execBsReadLine, Host.Outcome.next.injEq] at h
  subst h
  split
  · rename_i line rest hl
    have ho : (s.chan c).isOpen = true := by
      by_contra ho
      simp [Channel.available, ho, splitLine] at hl
    have hs := splitLine_suffix _ _ _ _ hl
    simp only [Channel.available, ho, if_true] at hs
    exact .ofChan c _ [] [⟨.chan c, .operation 0x14#8, .bytes line⟩] (.takes rest ho hs) (by cases c <;> simp [State.ret])
  · exact .answers s _ _ _

theorem effect_bsRxBytes (c : Chan) (bytes : List Byte) (s t : State) (h : exec (.bsRxBytes c bytes) s = .next t) :
    Effect s t := by
  simp only [exec, execBsRxBytes, Host.Outcome.next.injEq] at h
  subst h
  split
  · rename_i ho
    split
    · refine .ofChan c _
        [⟨.chan c, .readBufferWarning (((s.chan c).arrived bytes).length - s.params.readKeep)⟩,
          ⟨.chan c, .dataReceived bytes.length⟩] []
        (.receives (lastN s.params.readKeep ((s.chan c).arrived bytes)) ho ?_) (by cases c <;> simp [State.notify])
      rw [length_lastN, Params.readKeep]
      omega
    · rename_i hc
      exact .ofChan c _ [⟨.chan c, .dataReceived bytes.length⟩] [] (.receives ((s.chan c).arrived bytes) ho (by omega))
        (by cases c <;> simp [State.notify])
  · exact .same s

theorem effect_bsTxDrain (c : Chan) (k : Nat) (s t : State) (h : exec (.bsTxDrain c k) s = .next t) : Effect s t := by
  simp only [exec, execBsTxDrain, Host.Outcome.next.injEq] at h
  subst h
  split
  · rename_i hk
    simp only [Channel.drainAdmits, Bool.and_eq_true] at hk
    exact .ofChan c _ [] [] (.drains k hk.1.1) (by cases c <;> simp)
  · exact .same s

theorem effect_bsChanError (c : Chan) (kind : DeviceError) (s t : State)
    (h : exec (.bsChanError c kind) s = .next t) : Effect s t := by
  simp only [exec, execBsChanError, Host.Outcome.next.injEq] at h
  subst h
  split
  · have h := Effect.chanBreaks c [⟨.chan c, .error (deviceError kind)⟩, ⟨.chan c, .disconnected⟩] ‹_›
    simpa [State.notify] using h
  · exact .same s

theorem effect_bsWaitReady (c : Chan) (timeout : Nat) (s t : State) (h : exec (.bsWaitReady c timeout) s = .next t) :
    Effect s t := by
  simp only [exec, execBsWaitReady, State.callWait, Host.Outcome.next.injEq] at h
  subst h
  split
  · exact .answers s _ _ _
  · exact .waits _ ‹_›

theorem effect_canReadFrame (s t : State) (h : exec .canReadFrame s = .next t) : Effect s t := by
  simp only [exec, execCanReadFrame, Host.Outcome.next.injEq] at h
  subst h
  split
  · exact .answers s _ _ _
  · rename_i f rest hb
    exact .canReads rest [_] (hb ▸ List.suffix_cons f rest) (by simp [hb, Result.frameCount]; omega)

theorem effect_canThreadStep (s t : State) (h : exec .canThreadStep s = .next t) : Effect s t := by
  simp only [exec, execCanThreadStep, Host.Outcome.next.injEq] at h
  subst h
  split
  · rename_i he
    have hs : s.can.started = true := by
      cases ht : s.can.thread <;> simp [Can.stepEnabled, Can.started, ht] at he ⊢
    split
    · rename_i hr
      unfold State.threadTurn
      split
      · rename_i f rest hd
        split
        · have h := Effect.canPushes f rest [⟨.can, .bufferOverflow (s.can.enqueue f).dropped⟩, ⟨.can, .frameReceived f⟩] hs hr hd
          simpa [State.notify] using h
        · exact .canPushes f rest [⟨.can, .frameReceived f⟩] hs hr hd
      · exact .canSleeps hs hr
    · rename_i hr
      exact .canEnds hs (by simpa using hr)
  · exact .same s

theorem effect_slSlaveRx (s t : State) (h : exec .slSlaveRx s = .next t) : Effect s t := by
  simp only [exec, execSlSlaveRx, Host.Outcome.next.injEq] at h
  subst h
  split
  · rename_i hx
    have ho : s.sl.bs.isOpen = true := by simp only [Slave.rxEnabled, Bool.and_eq_true] at hx; exact hx.1
    have h := Effect.slaveTakes hx
    simpa only [Channel.drained, Channel.available, ho, if_true] using h
  · exact .same s

theorem effect_slGapFire (s t : State) (h : exec .slGapFire s = .next t) : Effect s t := by
  simp only [exec, execSlGapFire, Host.Outcome.next.injEq] at h
  subst h
  split
  · rename_i hg
    unfold State.slaveProcess
    split
    · exact .slaveDiscards hg
    · exact .slaveFires _ hg (slaveRun_effect _ _)
  · exact .same s

/-- Every operation changes the state in one of the ways of `Effect`. -/
theorem exec_effect (i : Instr) (s t : State) (h : exec i s = .next t) : Effect s t := by
  cases i
  case slvReadHoldingRegisters unit data => exact effect_slaveInstr ⟨unit, 0x03#8, data⟩ s t h
  case slvReadInputRegisters unit data => exact effect_slaveInstr ⟨unit, 0x04#8, data⟩ s t h
  case slvWriteSingleRegister unit data => exact effect_slaveInstr ⟨unit, 0x06#8, data⟩ s t h
  case slvWriteMultipleRegisters unit data => exact effect_slaveInstr ⟨unit, 0x10#8, data⟩ s t h
  case slvUnsupportedFunction unit fc data =>
    obtain rfl := Host.Outcome.next.inj h
    split
    · exact .slaveRuns _ (slaveEffect_raise s unit fc .illegalFunction)
    · exact .same s
  case exceptionResponseBuild fc code =>
    obtain rfl := Host.Outcome.next.inj h; exact .slaveRuns _ (slaveEffect_raise s _ fc code)
  case rtuReadCoils => obtain rfl := Host.Outcome.next.inj h; exact effect_rtuWire s _ _ _
  case rtuReadDiscreteInputs => obtain rfl := Host.Outcome.next.inj h; exact effect_rtuWire s _ _ _
  case rtuReadHoldingRegisters => obtain rfl := Host.Outcome.next.inj h; exact effect_rtuWire s _ _ _
  case rtuReadInputRegisters => obtain rfl := Host.Outcome.next.inj h; exact effect_rtuWire s _ _ _
  case rtuWriteSingleCoil => obtain rfl := Host.Outcome.next.inj h; exact effect_rtuWire s _ _ _
  case rtuWriteSingleRegister => obtain rfl := Host.Outcome.next.inj h; exact effect_rtuWire s _ _ _
  case rtuWriteMultipleCoils => obtain rfl := Host.Outcome.next.inj h; exact effect_rtuWire s _ _ _
  case rtuWriteMultipleRegisters => obtain rfl := Host.Outcome.next.inj h; exact effect_rtuWire s _ _ _
  case tcpReadCoils => obtain rfl := Host.Outcome.next.inj h; exact effect_tcpWire s _ _ _
  case tcpReadDiscreteInputs => obtain rfl := Host.Outcome.next.inj h; exact effect_tcpWire s _ _ _
  case tcpReadHoldingRegisters => obtain rfl := Host.Outcome.next.inj h; exact effect_tcpWire s _ _ _
  case tcpReadInputRegisters => obtain rfl := Host.Outcome.next.inj h; exact effect_tcpWire s _ _ _
  case tcpWriteSingleCoil => obtain rfl := Host.Outcome.next.inj h; exact effect_tcpWire s _ _ _
  case tcpWriteSingleRegister => obtain rfl := Host.Outcome.next.inj h; exact effect_tcpWire s _ _ _
  case tcpWriteMultipleCoils => obtain rfl := Host.Outcome.next.inj h; exact effect_tcpWire s _ _ _
  case tcpWriteMultipleRegisters => obtain rfl := Host.Outcome.next.inj h; exact effect_tcpWire s _ _ _
  case exceptionResponseDecode link fc code =>
    obtain rfl := Host.Outcome.next.inj h
    cases link
    · show Effect s (s.rtuException fc code)
      unfold State.rtuException
      split
      · split
        · exact .same s
        · exact effect_rtuConclude s _ _ _
      · exact .same s
    · show Effect s (s.tcpException fc code)
      unfold State.tcpException
      split
      · split
        · exact .same s
        · exact effect_tcpConclude s _ _ _ _
      · exact .same s
  case crcInit => obtain rfl := Host.Outcome.next.inj h; exact .crc _ [_]
  case crcByte b => obtain rfl := Host.Outcome.next.inj h; exact .crc _ [_]
  case crcRead => obtain rfl := Host.Outcome.next.inj h; exact .answers s _ _ _
  case crc16 bytes => obtain rfl := Host.Outcome.next.inj h; exact .answers s _ _ _
  case bsOpen c cfg draw => exact effect_bsOpen c cfg draw s t h
  case bsClose c => exact effect_bsClose c s t h
  case bsWrite c bytes =>
    obtain rfl := Host.Outcome.next.inj h
    exact .ofChan c _ [] [⟨.chan c, .operation 0x12#8, .count ((s.chan c).queuedLength bytes)⟩]
      (channelMove_write _ _ bytes) (by cases c <;> simp [State.ret])
  case bsReadAvailable c =>
    obtain rfl := Host.Outcome.next.inj h
    exact .ofChan c _ [] [⟨.chan c, .operation 0x13#8, .bytes (s.chan c).available⟩] (channelMove_drained _ _)
      (by cases c <;> simp [State.ret])
  case bsReadLine c => exact effect_bsReadLine c s t h
  case bsBytesAvailable c => obtain rfl := Host.Outcome.next.inj h; exact .answers s _ _ _
  case bsWaitReady c timeout => exact effect_bsWaitReady c timeout s t h
  case canStart =>
    obtain rfl := Host.Outcome.next.inj h
    split
    · exact .answers s _ _ _
    · rename_i hs; exact .canStarts [_] (by simpa using hs)
  case canStop =>
    obtain rfl := Host.Outcome.next.inj h
    split
    · exact .canStops ‹_›
    · exact .answers s _ _ _
  case canReadFrame => exact effect_canReadFrame s t h
  case canReadAllFrames => obtain rfl := Host.Outcome.next.inj h; exact .canReads [] [_] List.nil_suffix (by simp [Result.frameCount])
  case canBufferedCount => obtain rfl := Host.Outcome.next.inj h; exact .answers s _ _ _
  case canReceivedCount => obtain rfl := Host.Outcome.next.inj h; exact .answers s _ _ _
  case canDroppedCount => obtain rfl := Host.Outcome.next.inj h; exact .answers s _ _ _
  case slSetHoldingRegister addr value =>
    obtain rfl := Host.Outcome.next.inj h
    split
    · exact .holding _ [_] (by simp)
    · exact .answers s _ _ _
  case slGetHoldingRegister addr => obtain rfl := Host.Outcome.next.inj h; exact .answers s _ _ _
  case slSetInputRegister addr value =>
    obtain rfl := Host.Outcome.next.inj h
    split
    · exact .input _ [_] (by simp)
    · exact .answers s _ _ _
  case slGetInputRegister addr => obtain rfl := Host.Outcome.next.inj h; exact .answers s _ _ _
  case rmReadCoils => obtain rfl := Host.Outcome.next.inj h; exact effect_rtuCall s _
  case rmReadDiscreteInputs => obtain rfl := Host.Outcome.next.inj h; exact effect_rtuCall s _
  case rmReadHoldingRegisters => obtain rfl := Host.Outcome.next.inj h; exact effect_rtuCall s _
  case rmReadInputRegisters => obtain rfl := Host.Outcome.next.inj h; exact effect_rtuCall s _
  case rmWriteSingleCoil => obtain rfl := Host.Outcome.next.inj h; exact effect_rtuCall s _
  case rmWriteSingleRegister => obtain rfl := Host.Outcome.next.inj h; exact effect_rtuCall s _
  case rmWriteMultipleCoils => obtain rfl := Host.Outcome.next.inj h; exact effect_rtuCall s _
  case rmWriteMultipleRegisters => obtain rfl := Host.Outcome.next.inj h; exact effect_rtuCall s _
  case tmReadCoils => obtain rfl := Host.Outcome.next.inj h; exact effect_tcpCall s _
  case tmReadDiscreteInputs => obtain rfl := Host.Outcome.next.inj h; exact effect_tcpCall s _
  case tmReadHoldingRegisters => obtain rfl := Host.Outcome.next.inj h; exact effect_tcpCall s _
  case tmReadInputRegisters => obtain rfl := Host.Outcome.next.inj h; exact effect_tcpCall s _
  case tmWriteSingleCoil => obtain rfl := Host.Outcome.next.inj h; exact effect_tcpCall s _
  case tmWriteSingleRegister => obtain rfl := Host.Outcome.next.inj h; exact effect_tcpCall s _
  case tmWriteMultipleCoils => obtain rfl := Host.Outcome.next.inj h; exact effect_tcpCall s _
  case tmWriteMultipleRegisters => obtain rfl := Host.Outcome.next.inj h; exact effect_tcpCall s _
  case tmConnect ok =>
    obtain rfl := Host.Outcome.next.inj h
    split
    · exact .answers s _ _ _
    · split
      · exact .tcpLinks true [] [_] [_] (.inl rfl)
      · exact .quiet [_] [_]
  case tmDisconnect =>
    obtain rfl := Host.Outcome.next.inj h
    split
    · exact .tcpDrops [_] [_]
    · have h := Effect.tcpDrops (s := s) [] [⟨.tcpMaster, .operation 0x59#8, .void⟩]
      rw [List.append_nil] at h; exact h
  case tick dt => obtain rfl := Host.Outcome.next.inj h; exact .ticks dt
  case bsRxBytes c bytes => exact effect_bsRxBytes c bytes s t h
  case bsTxDrain c k => exact effect_bsTxDrain c k s t h
  case bsChanError c kind => exact effect_bsChanError c kind s t h
  case canArrive f => obtain rfl := Host.Outcome.next.inj h; exact .canArrives f
  case canThreadStep => exact effect_canThreadStep s t h
  case canNormalDrain =>
    obtain rfl := Host.Outcome.next.inj h
    split
    · rename_i hd
      exact .canDrains _ (by simp only [Can.drainEnabled, Bool.and_eq_true] at hd; simpa using hd.1)
    · exact .same s
  case slSlaveRx => exact effect_slSlaveRx s t h
  case slGapFire => exact effect_slGapFire s t h
  case rmMasterPoll => exact effect_rmMasterPoll s t h
  case tmTcpRx bytes =>
    obtain rfl := Host.Outcome.next.inj h
    split
    · have h := Effect.tcpLinks (s := s) s.tm.conn (s.tm.rxs ++ bytes) [] [] (.inr rfl)
      simp only [List.append_nil] at h; exact h
    · exact .same s
  case tmTcpPoll => exact effect_tmTcpPoll s t h
  case tmTcpPeerClose =>
    obtain rfl := Host.Outcome.next.inj h
    split
    · have h := Effect.tcpDrops (s := s) [⟨.tcpMaster, .error .connectionError⟩, ⟨.tcpMaster, .disconnected⟩] []
      simp only [List.append_nil] at h
      simpa [State.tcpDrop, State.notify] using h
    · exact .same s

/-- The RTU master's send clears the incoming buffer and queues its frame. -/
theorem channelMove_send (p : Params) (ch : Channel) (bytes : List Byte) (ho : ch.isOpen = true) :
    ChannelMove p ch (({ ch with rb := [] }).write bytes) := by
  have h := ChannelMove.sends (p := p) bytes ho
  have h2 : ({ ch with rb := [] } : Channel).isOpen = true := ho
  simpa only [Channel.write, h2, if_true] using h

/-- What one operation does to every channel; the parameters stay. -/
theorem effect_chan (s t : State) (h : Effect s t) :
    t.params = s.params ∧ ∀ c, ChannelMove s.params (s.chan c) (t.chan c) := by
  have same : ∀ u : State, u.params = s.params → (∀ c, u.chan c = s.chan c) →
      u.params = s.params ∧ ∀ c, ChannelMove s.params (s.chan c) (u.chan c) :=
    fun u hp hc => ⟨hp, fun c => by rw [hc]; exact .stays⟩
  cases h
  case chan c ch notes results move =>
    refine ⟨by cases c <;> rfl, fun d => ?_⟩
    by_cases hd : d = c
    · subst hd; cases d <;> exact move
    · cases c <;> cases d <;> first | exact absurd rfl hd | exact .stays
  case chanBreaks c notes h =>
    refine ⟨by cases c <;> rfl, fun d => ?_⟩
    by_cases hd : d = c
    · subst hd; cases d <;> exact .breaks h
    · cases c <;> cases d <;> first | exact absurd rfl hd | exact .stays
  case slaveTakes h =>
    refine ⟨rfl, fun c => ?_⟩
    cases c
    · exact .stays
    · simp only [Slave.rxEnabled, Bool.and_eq_true] at h; exact .takes [] h.1 List.nil_suffix
    · exact .stays
  case slaveRuns h =>
    obtain ⟨bank, body, notes, -, rfl⟩ := h
    refine ⟨rfl, fun c => ?_⟩
    cases c
    · exact .stays
    · exact channelMove_write _ _ _
    · exact .stays
  case slaveFires hg h =>
    obtain ⟨bank, body, notes, -, rfl⟩ := h
    refine ⟨rfl, fun c => ?_⟩
    cases c
    · exact .stays
    · exact channelMove_write _ _ _
    · exact .stays
  case rtuSends q hi ho =>
    refine ⟨rfl, fun c => ?_⟩
    cases c
    · exact .stays
    · exact .stays
    · exact channelMove_send _ _ _ ho
  case rtuGathers ctx hp =>
    refine ⟨rfl, fun c => ?_⟩
    cases c
    · exact .stays
    · exact .stays
    · exact channelMove_drained _ _
  case rtuEnds bs notes results move =>
    refine ⟨rfl, fun c => ?_⟩
    cases c
    · exact .stays
    · exact .stays
    · rcases move with rfl | rfl
      · exact .stays
      · exact channelMove_drained _ _
  all_goals exact same _ rfl (fun c => by cases c <;> rfl)

end Sys2Proof.Machine
end

