-- ==== Sys2Proof/Laws/Frame.lean ====
section
/-! SUPPORT. RTU frames: a sealed body passes the check, and a frame that passes is a sealed body. -/
namespace Sys2Proof

/-- A frame is its body and its two trailer bytes. -/
theorem frame_split (frame : List Byte) (h : 2 ≤ frame.length) :
    frame = frame.take (frame.length - 2) ++
      [frame.getD (frame.length - 2) 0#8, frame.getD (frame.length - 1) 0#8] := by
  obtain ⟨body, lo, hi, rfl⟩ : ∃ body lo hi, frame = body ++ [lo, hi] := by
    refine ⟨frame.take (frame.length - 2), frame[frame.length - 2], frame[frame.length - 1], ?_⟩
    conv_lhs => rw [← List.take_append_drop (frame.length - 2) frame]
    congr 1
    rw [List.drop_eq_getElem_cons (by omega), List.drop_eq_getElem_cons (by omega), List.drop_of_length_le (by omega)]
    simp [show frame.length - 2 + 1 = frame.length - 1 by omega]
  simp [List.getD_eq_getElem?_getD]

/-- The trailer of a sealed body is right. -/
theorem rtuCrcOk_sealFrame (body : List Byte) : rtuCrcOk (sealFrame body) = true := by
  simp [rtuCrcOk, sealFrame, List.getD_eq_getElem?_getD, be16_hi8_lo8]

/-- A frame with a right trailer is its body, sealed. -/
theorem eq_sealFrame_of_rtuCrcOk (frame : List Byte) (h : 2 ≤ frame.length) (hc : rtuCrcOk frame = true) :
    frame = sealFrame (frame.take (frame.length - 2)) := by
  rw [rtuCrcOk, beq_iff_eq] at hc
  conv_lhs => rw [frame_split frame h]
  rw [sealFrame, hc, lo8_be16, hi8_be16]

/-- The CRC test in numbers (43_frame_parser.md R237). -/
theorem rtuCrcOk_iff (frame : List Byte) :
    rtuCrcOk frame = true ↔ (crc16 (frame.take (frame.length - 2))).toNat =
      (frame.getD (frame.length - 2) 0#8).toNat + 256 * (frame.getD (frame.length - 1) 0#8).toNat := by
  rw [rtuCrcOk, beq_iff_eq, ← BitVec.toNat_inj, toNat_be16]
  omega

/-- The fields of a frame of format RTU. -/
theorem rtuFields_frame (unit fc lo hi : Byte) (data : List Byte) :
    rtuFields (unit :: fc :: (data ++ [lo, hi])) = ⟨unit, fc, data⟩ := by
  simp [rtuFields]

/-- A frame of format RTU opens to its fields. -/
theorem rtuOpen_rtuFrame (unit fc : Byte) (data : List Byte) :
    rtuOpen (rtuFrame unit fc data) = .ok ⟨unit, fc, data⟩ := by
  rw [rtuOpen, rtuFrame, rtuCrcOk_sealFrame, if_neg (by simp [sealFrame]), if_pos rfl, sealFrame, List.cons_append,
    List.cons_append, rtuFields_frame]

/-- A frame that opens is the frame of format RTU of its fields. -/
theorem eq_rtuFrame_of_rtuOpen (frame : List Byte) (p : RtuPdu) (h : rtuOpen frame = .ok p) :
    frame = rtuFrame p.unit p.fc p.data := by
  unfold rtuOpen at h
  split at h
  · cases h
  · rename_i hlen
    split at h
    · rename_i hc
      obtain rfl := Except.ok.inj h
      have hs := eq_sealFrame_of_rtuCrcOk frame (by omega) hc
      rcases hb : frame.take (frame.length - 2) with _ | ⟨unit, _ | ⟨fc, data⟩⟩
      · have := congrArg List.length hb; simp at this; omega
      · have := congrArg List.length hb; simp at this; omega
      · rw [hb] at hs
        rw [hs, sealFrame, List.cons_append, List.cons_append, rtuFields_frame]
        rfl
    · cases h

end Sys2Proof
end

