-- ==== Sys2Proof/Laws/PerInstr.lean ====
section
/-! SUPPORT. Statements about every instruction as syntax, one lemma per constructor of `Instr`. The family `OpcodeByte`: a
record begins with an opcode byte that spec/opcode_table.json assigns in the space the second byte names. -/
namespace Sys2Proof.Laws.OpcodeByte

/-- The opcode bytes of the table's spaces (30_encoding.md R110 to R112). -/
def assigned (space op : Byte) : Bool :=
  if space = 0x00#8 then
    decide (op.toNat < 0x04) || decide (0x10 ≤ op.toNat ∧ op.toNat < 0x17) || decide (0x20 ≤ op.toNat ∧ op.toNat < 0x27) ||
      decide (0x30 ≤ op.toNat ∧ op.toNat < 0x34) || decide (0x40 ≤ op.toNat ∧ op.toNat < 0x48) ||
      decide (0x50 ≤ op.toNat ∧ op.toNat < 0x5A) || decide (0x80 ≤ op.toNat ∧ op.toNat < 0x8D)
  else if space = 0x01#8 then true
  else if space = 0x02#8 ∨ space = 0x05#8 then op.getLsbD 7
  else if space = 0x03#8 ∨ space = 0x04#8 then
    decide (0x01 ≤ op.toNat ∧ op.toNat ≤ 0x06) || decide (op = 0x0F#8) || decide (op = 0x10#8)
  else false

/-- The record of `i` begins with its opcode byte and its space byte, and the table assigns the one in the other. -/
def Statement (i : Instr) : Prop :=
  (∃ operands, encode i = i.opcode :: i.space :: operands) ∧ assigned i.space i.opcode = true

theorem bit7 (fc : Byte) : (fc ||| 0x80#8).getLsbD 7 = true := by simp

theorem slvReadHoldingRegisters (unit : Byte) (data : List Byte) :
    Statement (.slvReadHoldingRegisters unit data) := ⟨⟨_, rfl⟩, rfl⟩
theorem slvReadInputRegisters (unit : Byte) (data : List Byte) :
    Statement (.slvReadInputRegisters unit data) := ⟨⟨_, rfl⟩, rfl⟩
theorem slvWriteSingleRegister (unit : Byte) (data : List Byte) :
    Statement (.slvWriteSingleRegister unit data) := ⟨⟨_, rfl⟩, rfl⟩
theorem slvWriteMultipleRegisters (unit : Byte) (data : List Byte) :
    Statement (.slvWriteMultipleRegisters unit data) := ⟨⟨_, rfl⟩, rfl⟩
theorem slvUnsupportedFunction (unit fc : Byte) (data : List Byte) :
    Statement (.slvUnsupportedFunction unit fc data) := ⟨⟨_, rfl⟩, rfl⟩
theorem exceptionResponseBuild (fc : Byte) (code : ExceptionCode) :
    Statement (.exceptionResponseBuild fc code) := ⟨⟨_, rfl⟩, bit7 fc⟩
theorem rtuReadCoils (m : RtuMsg ReadReq) : Statement (.rtuReadCoils m) := ⟨⟨_, rfl⟩, rfl⟩
theorem rtuReadDiscreteInputs (m : RtuMsg ReadReq) : Statement (.rtuReadDiscreteInputs m) := ⟨⟨_, rfl⟩, rfl⟩
theorem rtuReadHoldingRegisters (m : RtuMsg ReadReq) : Statement (.rtuReadHoldingRegisters m) := ⟨⟨_, rfl⟩, rfl⟩
theorem rtuReadInputRegisters (m : RtuMsg ReadReq) : Statement (.rtuReadInputRegisters m) := ⟨⟨_, rfl⟩, rfl⟩
theorem rtuWriteSingleCoil (m : RtuMsg CoilReq) : Statement (.rtuWriteSingleCoil m) := ⟨⟨_, rfl⟩, rfl⟩
theorem rtuWriteSingleRegister (m : RtuMsg RegReq) : Statement (.rtuWriteSingleRegister m) := ⟨⟨_, rfl⟩, rfl⟩
theorem rtuWriteMultipleCoils (m : RtuMsg CoilsReq) : Statement (.rtuWriteMultipleCoils m) := ⟨⟨_, rfl⟩, rfl⟩
theorem rtuWriteMultipleRegisters (m : RtuMsg RegsReq) : Statement (.rtuWriteMultipleRegisters m) := ⟨⟨_, rfl⟩, rfl⟩
theorem tcpReadCoils (m : TcpMsg ReadReq) : Statement (.tcpReadCoils m) := ⟨⟨_, rfl⟩, rfl⟩
theorem tcpReadDiscreteInputs (m : TcpMsg ReadReq) : Statement (.tcpReadDiscreteInputs m) := ⟨⟨_, rfl⟩, rfl⟩
theorem tcpReadHoldingRegisters (m : TcpMsg ReadReq) : Statement (.tcpReadHoldingRegisters m) := ⟨⟨_, rfl⟩, rfl⟩
theorem tcpReadInputRegisters (m : TcpMsg ReadReq) : Statement (.tcpReadInputRegisters m) := ⟨⟨_, rfl⟩, rfl⟩
theorem tcpWriteSingleCoil (m : TcpMsg CoilReq) : Statement (.tcpWriteSingleCoil m) := ⟨⟨_, rfl⟩, rfl⟩
theorem tcpWriteSingleRegister (m : TcpMsg RegReq) : Statement (.tcpWriteSingleRegister m) := ⟨⟨_, rfl⟩, rfl⟩
theorem tcpWriteMultipleCoils (m : TcpMsg CoilsReq) : Statement (.tcpWriteMultipleCoils m) := ⟨⟨_, rfl⟩, rfl⟩
theorem tcpWriteMultipleRegisters (m : TcpMsg RegsReq) : Statement (.tcpWriteMultipleRegisters m) := ⟨⟨_, rfl⟩, rfl⟩
theorem exceptionResponseDecode (link : Link) (fc code : Byte) :
    Statement (.exceptionResponseDecode link fc code) := ⟨⟨_, rfl⟩, bit7 fc⟩
theorem crcInit : Statement .crcInit := ⟨⟨_, rfl⟩, rfl⟩
theorem crcByte (b : Byte) : Statement (.crcByte b) := ⟨⟨_, rfl⟩, rfl⟩
theorem crcRead : Statement .crcRead := ⟨⟨_, rfl⟩, rfl⟩
theorem crc16 (bytes : List Byte) : Statement (.crc16 bytes) := ⟨⟨_, rfl⟩, rfl⟩
theorem bsOpen (c : Chan) (config : SerialCfg) (draw : OpenDraw) :
    Statement (.bsOpen c config draw) := ⟨⟨_, rfl⟩, rfl⟩
theorem bsClose (c : Chan) : Statement (.bsClose c) := ⟨⟨_, rfl⟩, rfl⟩
theorem bsWrite (c : Chan) (bytes : List Byte) : Statement (.bsWrite c bytes) := ⟨⟨_, rfl⟩, rfl⟩
theorem bsReadAvailable (c : Chan) : Statement (.bsReadAvailable c) := ⟨⟨_, rfl⟩, rfl⟩
theorem bsReadLine (c : Chan) : Statement (.bsReadLine c) := ⟨⟨_, rfl⟩, rfl⟩
theorem bsBytesAvailable (c : Chan) : Statement (.bsBytesAvailable c) := ⟨⟨_, rfl⟩, rfl⟩
theorem bsWaitReady (c : Chan) (timeout : Nat) : Statement (.bsWaitReady c timeout) := ⟨⟨_, rfl⟩, rfl⟩
theorem canStart : Statement .canStart := ⟨⟨_, rfl⟩, rfl⟩
theorem canStop : Statement .canStop := ⟨⟨_, rfl⟩, rfl⟩
theorem canReadFrame : Statement .canReadFrame := ⟨⟨_, rfl⟩, rfl⟩
theorem canReadAllFrames : Statement .canReadAllFrames := ⟨⟨_, rfl⟩, rfl⟩
theorem canBufferedCount : Statement .canBufferedCount := ⟨⟨_, rfl⟩, rfl⟩
theorem canReceivedCount : Statement .canReceivedCount := ⟨⟨_, rfl⟩, rfl⟩
theorem canDroppedCount : Statement .canDroppedCount := ⟨⟨_, rfl⟩, rfl⟩
theorem slSetHoldingRegister (addr : Nat) (value : Word) :
    Statement (.slSetHoldingRegister addr value) := ⟨⟨_, rfl⟩, rfl⟩
theorem slGetHoldingRegister (addr : Nat) : Statement (.slGetHoldingRegister addr) := ⟨⟨_, rfl⟩, rfl⟩
theorem slSetInputRegister (addr : Nat) (value : Word) : Statement (.slSetInputRegister addr value) := ⟨⟨_, rfl⟩, rfl⟩
theorem slGetInputRegister (addr : Nat) : Statement (.slGetInputRegister addr) := ⟨⟨_, rfl⟩, rfl⟩
theorem rmReadCoils (start count : Nat) : Statement (.rmReadCoils start count) := ⟨⟨_, rfl⟩, rfl⟩
theorem rmReadDiscreteInputs (start count : Nat) : Statement (.rmReadDiscreteInputs start count) := ⟨⟨_, rfl⟩, rfl⟩
theorem rmReadHoldingRegisters (start count : Nat) :
    Statement (.rmReadHoldingRegisters start count) := ⟨⟨_, rfl⟩, rfl⟩
theorem rmReadInputRegisters (start count : Nat) : Statement (.rmReadInputRegisters start count) := ⟨⟨_, rfl⟩, rfl⟩
theorem rmWriteSingleCoil (addr : Nat) (on : Bool) : Statement (.rmWriteSingleCoil addr on) := ⟨⟨_, rfl⟩, rfl⟩
theorem rmWriteSingleRegister (addr : Nat) (value : Word) :
    Statement (.rmWriteSingleRegister addr value) := ⟨⟨_, rfl⟩, rfl⟩
theorem rmWriteMultipleCoils (start : Nat) (values : List Bool) :
    Statement (.rmWriteMultipleCoils start values) := ⟨⟨_, rfl⟩, rfl⟩
theorem rmWriteMultipleRegisters (start : Nat) (values : List Word) :
    Statement (.rmWriteMultipleRegisters start values) := ⟨⟨_, rfl⟩, rfl⟩
theorem tmReadCoils (start count : Nat) : Statement (.tmReadCoils start count) := ⟨⟨_, rfl⟩, rfl⟩
theorem tmReadDiscreteInputs (start count : Nat) : Statement (.tmReadDiscreteInputs start count) := ⟨⟨_, rfl⟩, rfl⟩
theorem tmReadHoldingRegisters (start count : Nat) :
    Statement (.tmReadHoldingRegisters start count) := ⟨⟨_, rfl⟩, rfl⟩
theorem tmReadInputRegisters (start count : Nat) : Statement (.tmReadInputRegisters start count) := ⟨⟨_, rfl⟩, rfl⟩
theorem tmWriteSingleCoil (addr : Nat) (on : Bool) : Statement (.tmWriteSingleCoil addr on) := ⟨⟨_, rfl⟩, rfl⟩
theorem tmWriteSingleRegister (addr : Nat) (value : Word) :
    Statement (.tmWriteSingleRegister addr value) := ⟨⟨_, rfl⟩, rfl⟩
theorem tmWriteMultipleCoils (start : Nat) (values : List Bool) :
    Statement (.tmWriteMultipleCoils start values) := ⟨⟨_, rfl⟩, rfl⟩
theorem tmWriteMultipleRegisters (start : Nat) (values : List Word) :
    Statement (.tmWriteMultipleRegisters start values) := ⟨⟨_, rfl⟩, rfl⟩
theorem tmConnect (ok : Bool) : Statement (.tmConnect ok) := ⟨⟨_, rfl⟩, rfl⟩
theorem tmDisconnect : Statement .tmDisconnect := ⟨⟨_, rfl⟩, rfl⟩
theorem tick (dt : Nat) : Statement (.tick dt) := ⟨⟨_, rfl⟩, rfl⟩
theorem bsRxBytes (c : Chan) (bytes : List Byte) : Statement (.bsRxBytes c bytes) := ⟨⟨_, rfl⟩, rfl⟩
theorem bsTxDrain (c : Chan) (k : Nat) : Statement (.bsTxDrain c k) := ⟨⟨_, rfl⟩, rfl⟩
theorem bsChanError (c : Chan) (kind : DeviceError) : Statement (.bsChanError c kind) := ⟨⟨_, rfl⟩, rfl⟩
theorem canArrive (f : CanFrame) : Statement (.canArrive f) := ⟨⟨_, rfl⟩, rfl⟩
theorem canThreadStep : Statement .canThreadStep := ⟨⟨_, rfl⟩, rfl⟩
theorem canNormalDrain : Statement .canNormalDrain := ⟨⟨_, rfl⟩, rfl⟩
theorem slSlaveRx : Statement .slSlaveRx := ⟨⟨_, rfl⟩, rfl⟩
theorem slGapFire : Statement .slGapFire := ⟨⟨_, rfl⟩, rfl⟩
theorem rmMasterPoll : Statement .rmMasterPoll := ⟨⟨_, rfl⟩, rfl⟩
theorem tmTcpRx (bytes : List Byte) : Statement (.tmTcpRx bytes) := ⟨⟨_, rfl⟩, rfl⟩
theorem tmTcpPoll : Statement .tmTcpPoll := ⟨⟨_, rfl⟩, rfl⟩
theorem tmTcpPeerClose : Statement .tmTcpPeerClose := ⟨⟨_, rfl⟩, rfl⟩

end Sys2Proof.Laws.OpcodeByte
end

