-- ==== Sys2Proof/Laws/Suspended.lean ====
section
/-! SUPPORT. The last steps of suspended host calls (`State.chosenReturn`, `State.mustReturn`), said once. -/
namespace Sys2Proof.Machine

/-- Nothing is accepted exactly when no element is. -/
theorem takeFirst_eq_none {α β : Type} (p : α → Option β) (as : List α) :
    takeFirst p as = none ↔ ∀ a ∈ as, p a = none := by
  induction as with
  | nil => simp [takeFirst]
  | cons a as ih =>
    rw [takeFirst, List.forall_mem_cons, ← ih]
    cases p a with
    | some b => simp
    | none => rcases takeFirst p as with - | ⟨x, b, rest⟩ <;> simp

/-- What is accepted is the first element that can be; the others keep their order. -/
theorem takeFirst_eq_some {α β : Type} (p : α → Option β) (as : List α) (a : α) (b : β) (rest : List α)
    (h : takeFirst p as = some (a, b, rest)) :
    ∃ before after, as = before ++ a :: after ∧ rest = before ++ after ∧ p a = some b ∧ ∀ x ∈ before, p x = none := by
  induction as generalizing rest with
  | nil => cases h
  | cons x as ih =>
    unfold takeFirst at h
    split at h
    · cases h
      exact ⟨[], as, rfl, rfl, ‹_›, by simp⟩
    · split at h
      · cases h
        obtain ⟨before, after, rfl, rfl, hp, hb⟩ := ih _ ‹_›
        exact ⟨x :: before, after, rfl, rfl, hp, List.forall_mem_cons.2 ⟨‹_›, hb⟩⟩
      · cases h

/-- The first element that is accepted, found. -/
theorem takeFirst_append {α β : Type} (p : α → Option β) (before after : List α) (a : α) (b : β)
    (hb : ∀ x ∈ before, p x = none) (ha : p a = some b) :
    takeFirst p (before ++ a :: after) = some (a, b, before ++ after) := by
  induction before with
  | nil => simp [takeFirst, ha]
  | cons x xs ih =>
    rw [List.forall_mem_cons] at hb
    simp [takeFirst, hb.1, ih hb.2]

/-- A join time that is not up is ahead. -/
theorem State.joinOver_eq_none (s : State) (c : StopCall) : s.joinOver c = none ↔ s.now < c.deadline := by
  simp only [State.joinOver]
  split <;> simp <;> omega

/-- Whether a suspended `waitReady` call returns depends on the channels and the clock only. -/
theorem State.waitOutcome_congr (s t : State) (w : Wait) (hc : ∀ c, t.chan c = s.chan c) (hn : t.now = s.now) :
    t.waitOutcome w = s.waitOutcome w := by
  simp [State.waitOutcome, hc, hn]

/-- No suspended call takes the next step exactly when none is due. -/
theorem State.mustReturn_eq_none (s : State) :
    s.mustReturn = none ↔ (∀ w ∈ s.waits, s.waitOutcome w = none) ∧ ∀ c ∈ s.stops, s.now < c.deadline := by
  simp only [← State.joinOver_eq_none, ← takeFirst_eq_none, State.mustReturn]
  rcases takeFirst s.waitOutcome s.waits with - | ⟨w, b, rest⟩
  · rcases takeFirst s.joinOver s.stops with - | ⟨d, u, rest⟩ <;> simp
  · simp

/-- The suspended call that takes the next step: the first `waitReady` that is due, or, when none is, the first `stop` whose
join time is up. -/
theorem State.mustReturn_cases (s t : State) (h : s.mustReturn = some t) :
    (∃ w b before after, s.waits = before ++ w :: after ∧ s.waitOutcome w = some b ∧
      (∀ x ∈ before, s.waitOutcome x = none) ∧ t = s.endWait w b (before ++ after)) ∨
    ((∀ w ∈ s.waits, s.waitOutcome w = none) ∧ ∃ c before after, s.stops = before ++ c :: after ∧ c.deadline ≤ s.now ∧
      (∀ x ∈ before, s.now < x.deadline) ∧ t = s.endStop c (before ++ after)) := by
  unfold State.mustReturn at h
  split at h
  · obtain ⟨before, after, hw, rfl, hp, hb⟩ := takeFirst_eq_some _ _ _ _ _ ‹_›
    exact .inl ⟨_, _, before, after, hw, hp, hb, (Option.some.inj h).symm⟩
  · split at h
    · obtain ⟨before, after, hd, rfl, hp, hb⟩ := takeFirst_eq_some _ _ _ _ _ ‹_›
      refine .inr ⟨(takeFirst_eq_none _ _).1 ‹_›, _, before, after, hd, ?_,
        fun x hx => (s.joinOver_eq_none x).1 (hb x hx), (Option.some.inj h).symm⟩
      by_contra hn
      rw [(s.joinOver_eq_none _).2 (by omega)] at hp
      cases hp
    · cases h

/-- Two lists around an element, put together without it. -/
theorem eraseIdx_between {α : Type} (before after : List α) (a : α) :
    (before ++ a :: after).eraseIdx before.length = before ++ after := by
  simp [List.eraseIdx_append_of_length_le]

/-- An index that holds an element cuts the list there. -/
theorem split_at_index {α : Type} (as : List α) (k : Nat) (a : α) (h : as[k]? = some a) :
    ∃ before after, as = before ++ a :: after ∧ before.length = k ∧ as.eraseIdx k = before ++ after := by
  obtain ⟨hk, rfl⟩ := List.getElem?_eq_some_iff.1 h
  refine ⟨as.take k, as.drop (k + 1), ?_, by simp; omega, List.eraseIdx_eq_take_drop_succ as k⟩
  rw [List.cons_getElem_drop_succ, List.take_append_drop]

/-- The last step of a `waitReady` call that the inbox names: enabled when the call is due. -/
theorem State.waitReturns_between (s : State) (before after : List Wait) (w : Wait) (h : s.waits = before ++ w :: after) :
    s.waitReturns before.length = (s.waitOutcome w).map fun b => s.endWait w b (before ++ after) := by
  simp only [State.waitReturns, h, eraseIdx_between]
  cases hb : s.waitOutcome w <;> simp [hb]

/-- The last step of a `stop` call that the inbox names: enabled when its wait is over. -/
theorem State.stopReturns_between (s : State) (before after : List StopCall) (c : StopCall)
    (h : s.stops = before ++ c :: after) :
    s.stopReturns before.length = if s.stopOver c then some (s.endStop c (before ++ after)) else none := by
  simp only [State.stopReturns, h, eraseIdx_between]
  simp

/-- The last step the inbox names, where it is enabled. -/
theorem State.chosenReturn_cases (s t : State) (h : s.chosenReturn = some t) :
    (∃ before after w b rest, s.inbox = .waitReturns before.length :: rest ∧ s.waits = before ++ w :: after ∧
      s.waitOutcome w = some b ∧ t = State.endWait { s with inbox := rest } w b (before ++ after)) ∨
    (∃ before after c rest, s.inbox = .stopReturns before.length :: rest ∧ s.stops = before ++ c :: after ∧
      s.stopOver c = true ∧ t = State.endStop { s with inbox := rest } c (before ++ after)) := by
  unfold State.chosenReturn at h
  split at h
  · rename_i k rest hi
    cases hw : s.waits[k]? with
    | none => simp [State.waitReturns, hw] at h
    | some w =>
      obtain ⟨before, after, hs, rfl, -⟩ := split_at_index _ _ _ hw
      rw [State.waitReturns_between { s with inbox := rest } before after w hs] at h
      obtain ⟨b, hb, rfl⟩ := Option.map_eq_some_iff.1 h
      have hc := State.waitOutcome_congr s { s with inbox := rest } w (fun c => by cases c <;> rfl) rfl
      exact .inl ⟨before, after, w, b, rest, hi, hs, hc ▸ hb, rfl⟩
  · rename_i k rest hi
    cases hc : s.stops[k]? with
    | none => simp [State.stopReturns, hc] at h
    | some c =>
      obtain ⟨before, after, hs, rfl, -⟩ := split_at_index _ _ _ hc
      rw [State.stopReturns_between { s with inbox := rest } before after c hs] at h
      split at h
      · exact .inr ⟨before, after, c, rest, hi, hs, ‹_›, (Option.some.inj h).symm⟩
      · cases h
  all_goals cases h

/-- An inbox that names no last step chooses none. -/
theorem State.chosenReturn_eq_none (s : State) (hw : ∀ k rest, s.inbox ≠ .waitReturns k :: rest)
    (hs : ∀ k rest, s.inbox ≠ .stopReturns k :: rest) : s.chosenReturn = none := by
  unfold State.chosenReturn
  split
  · exact absurd ‹_› (hw _ _)
  · exact absurd ‹_› (hs _ _)
  all_goals rfl

end Sys2Proof.Machine
end

