-- ==== Sys2Proof/Laws/Step.lean ====
section
/-! SUPPORT. What one step can do: the last step of a suspended call, or nothing, one operation or one configuration
write. -/
namespace Sys2Proof.Machine

/-- When no last step is chosen and none must come, a step takes the input. -/
theorem step_of_noReturn (s : State) (hc : s.chosenReturn = none) (hm : s.mustReturn = none) : step s = takeInput s := by
  simp only [step, hc, hm]

/-- Taking an input that answers a next state. -/
theorem takeInput_cases (s t : State) (h : takeInput s = .next t) :
    (∃ rest, t = { s with inbox := rest }) ∨
    (∃ bytes rest i, s.inbox = .operation bytes :: rest ∧ decode bytes = .ok i ∧ exec i { s with inbox := rest } = .next t) ∨
    (∃ w rest, s.inbox = .configure w :: rest ∧ t = State.configure { s with inbox := rest } w) := by
  unfold takeInput at h
  split at h
  · exact .inl ⟨s.inbox, (Host.Outcome.next.inj h).symm⟩
  · exact .inr (.inr ⟨_, _, ‹_›, (Host.Outcome.next.inj h).symm⟩)
  · exact .inl ⟨_, (Host.Outcome.next.inj h).symm⟩
  · exact .inl ⟨_, (Host.Outcome.next.inj h).symm⟩
  · split at h
    · exact .inr (.inl ⟨_, _, _, ‹_›, ‹_›, h⟩)
    · cases h

/-- What the last step of a suspended call changes: the call, one of those suspended, ends, a result is returned and, for
`stop`, the CAN thread it waits for and the queue are ended. -/
inductive LastStep (s : State) : State → Prop
  | wait (w : Wait) (b : Bool) (before after : List Wait) (split : s.waits = before ++ w :: after)
      (due : s.waitOutcome w = some b) : LastStep s (s.endWait w b (before ++ after))
  | stop (c : StopCall) (before after : List StopCall) (split : s.stops = before ++ c :: after)
      (ended : s.stopOver c = true) : LastStep s (s.endStop c (before ++ after))

/-- A step that answers a next state: a last step (chosen by the input, which it then takes out, or due), or one operation,
one configuration write or nothing, each with that input taken out. -/
theorem step_cases (s t : State) (h : step s = .next t) :
    (∃ rest, LastStep { s with inbox := rest } t) ∨
    (∃ rest, t = { s with inbox := rest }) ∨
    (∃ bytes rest i, s.inbox = .operation bytes :: rest ∧ decode bytes = .ok i ∧ exec i { s with inbox := rest } = .next t) ∨
    (∃ w rest, s.inbox = .configure w :: rest ∧ t = State.configure { s with inbox := rest } w) := by
  unfold step at h
  split at h
  · obtain rfl := Host.Outcome.next.inj h
    rcases State.chosenReturn_cases s _ ‹_› with ⟨before, after, w, b, rest, -, hw, hb, rfl⟩ |
      ⟨before, after, c, rest, -, hc, ho, rfl⟩
    · have hsame := State.waitOutcome_congr s { s with inbox := rest } w (fun c => by cases c <;> rfl) rfl
      exact .inl ⟨rest, .wait w b before after hw (hsame.trans hb)⟩
    · exact .inl ⟨rest, .stop c before after hc ho⟩
  · split at h
    · obtain rfl := Host.Outcome.next.inj h
      refine .inl ⟨s.inbox, ?_⟩
      rcases State.mustReturn_cases s _ ‹_› with ⟨w, b, before, after, hw, hb, -, rfl⟩ |
        ⟨-, c, before, after, hc, hd, -, rfl⟩
      · exact .wait w b before after hw hb
      · exact .stop c before after hc (by simp [State.stopOver, hd])
    · exact .inr (takeInput_cases s t h)

/-- What a configuration write can do: nothing but traces, or its field where the value is legal and the unit inactive. -/
theorem configure_cases (s : State) (w : ConfigWrite) :
    (∃ notes results, s.configure w = { s with out := s.out ++ notes, returns := s.returns ++ results }) ∨
    (w.legal = true ∧ s.mayConfigure w = true ∧
      s.configure w = { s.setConfig w with returns := s.returns ++ [⟨w.source, .configure, .bool true⟩] }) := by
  unfold State.configure
  split
  · exact .inl ⟨[⟨w.source, .error .configurationError⟩], [⟨w.source, .configure, .bool false⟩], rfl⟩
  · rename_i hl
    split
    · exact .inl ⟨[], [⟨w.source, .configure, .bool false⟩], by rw [List.append_nil]; rfl⟩
    · rename_i hm
      exact .inr ⟨by simpa using hl, by simpa using hm, by cases w <;> rfl⟩

/-- A configuration write leaves every channel alone. -/
theorem setConfig_chan (s : State) (w : ConfigWrite) (c : Chan) : (s.setConfig w).chan c = s.chan c := by
  cases w <;> cases c <;> rfl

end Sys2Proof.Machine
end

