-- ==== Sys2Proof/Tests/Slice0.lean ====
section
/-! SUPPORT. The model's own tests: ill-formed terms, words written out from the spec's encodings, one-step behaviours with
the expected values of 95_test_vectors.md, and for every statement with hypotheses a witness that meets them. -/
open Sys2Proof Sys2Proof.Machine Sys2Proof.Claims

namespace Sys2Proof.Tests

/-! A `decide +kernel` waits for every earlier declaration; elaborating one test at a time keeps the number of waiting
threads small. -/
set_option Elab.async false

/-! ### Helpers -/

/-- The next state of one operation, if it answers one. -/
def run (i : Instr) (s : State) : Option State :=
  match exec i s with
  | .next t => some t
  | .fault _ => none
  | .refused _ => none

/-- The next state of one step, if it answers one. -/
def stepped (s : State) : Option State :=
  match step s with
  | .next t => some t
  | .fault _ => none
  | .refused _ => none

/-- A legal serial configuration. -/
def cfg : SerialCfg := ⟨9600, 8, .none, 1⟩

/-- A channel with these contents. -/
def chWith (state : ChanState) (rb wq : List Byte) : Channel := ⟨state, cfg, rb, wq, []⟩

/-- The reset state with one channel replaced. -/
def onChan (c : Chan) (ch : Channel) : State := State.reset.setChan c ch

/-- The reset state with the host's channel open. -/
def opened (rb wq : List Byte) : State := onChan .host (chWith .opened rb wq)

/-- The CAN frames of the vectors. -/
def fr (n : Nat) : CanFrame := ⟨n, false, .data, []⟩

/-- A CAN unit of capacities 3. -/
def canWith (thread : ThreadState) (running : Bool) (q devq : List CanFrame) (received dropped : Nat) : State :=
  { State.reset with can := { Can.reset with
      qcap := 3, vcap := 3, thread := thread, running := running, q := q, devq := devq, received := received, dropped := dropped } }

/-- A bank that begins with these registers. -/
def bank (vs : List Word) : List Word := vs ++ List.replicate (256 - vs.length) 0#16

/-- A slave with this address and these banks, its channel open, and a completed frame in its assembly buffer. -/
def slaveWith (addr : Byte) (hr ir : List Word) (frame : List Byte) : State :=
  { State.reset with sl := { Slave.reset with
      addr := addr, hr := bank hr, ir := bank ir, bs := chWith .opened [] [], asm := frame, gapArmed := true } }

/-- What the slave answers to a completed frame: the bytes queued and the notifications. -/
def answers (s : State) : Option (List Byte × List Notice) :=
  (run .slGapFire s).map fun t => (t.sl.bs.wq, t.out.map (·.notice))

/-- An idle RTU master of unit 1 on an open channel. -/
def rtuIdle : State := { State.reset with rm := { RtuMaster.reset with unit := 1#8, bs := chWith .opened [] [] } }

/-- A context. -/
def ctxOf (fc : FunctionCode) (txn first second : Word) (deadline : Nat) : TransactionContext :=
  ⟨1#8, txn, fc, ⟨first, second⟩, 0, deadline, [], false⟩

/-- An RTU master of unit 1 waiting for a response, with these bytes arrived. -/
def rtuWaiting (fc : FunctionCode) (first second : Word) (rb : List Byte) : State :=
  { State.reset with rm := { RtuMaster.reset with
      unit := 1#8, bs := chWith .opened rb [], state := .awaitingResponse, ctx := some (ctxOf fc 0#16 first second 1000) } }

/-- A connected, idle TCP master of unit 1 with this counter. -/
def tcpIdle (txn : Word) : State :=
  { State.reset with tm := { TcpMaster.reset with unit := 1#8, conn := true, txn := txn } }

/-- A TCP master of unit 1 waiting for the response to transaction-id 5, with these bytes in the stream. -/
def tcpWaiting (fc : FunctionCode) (first second : Word) (rxs : List Byte) : State :=
  { State.reset with tm := { TcpMaster.reset with
      unit := 1#8, conn := true, txn := 5#16, rxs := rxs, state := .awaitingResponse
      ctx := some (ctxOf fc 5#16 first second 3000) } }

/-- The results of a state, without their calls. -/
def resultsOf (t : State) : List Result := t.returns.map (·.result)

/-- The notices of a state. -/
def noticesOf (t : State) : List Notice := t.out.map (·.notice)

/-! ### Well-formedness: one ill-formed term for each check -/

theorem test_wf_tick_zero : (Instr.tick 0).wf = false := by decide
theorem test_wf_empty_arrival : (Instr.bsRxBytes .host []).wf = false := by decide
theorem test_wf_empty_stream_arrival : (Instr.tmTcpRx []).wf = false := by decide
theorem test_wf_drain_of_nothing : (Instr.bsTxDrain .host 0).wf = false := by decide
theorem test_wf_can_frame_too_long : (Instr.canArrive ⟨1, false, .data, List.replicate 9 0#8⟩).wf = false := by decide
theorem test_wf_can_identifier_too_wide :
    (Instr.canArrive ⟨2048, false, .data, []⟩).wf = false ∧ (Instr.canArrive ⟨2 ^ 29, true, .data, []⟩).wf = false := by
  decide
theorem test_wf_supported_function_is_not_unsupported : (Instr.slvUnsupportedFunction 1#8 0x10#8 []).wf = false := by decide
theorem test_wf_exception_code_with_bit_7 : (Instr.exceptionResponseDecode .rtu 0x83#8 2#8).wf = false := by decide

/-! ### Decoding: words written out from the spec's encodings, one for every constructor

The opcode byte is the one of 30_encoding.md R110 to R112; the space byte and the operands after it are the model's packing
(log 2). The slave's frames are written out with their CRC, from 95_test_vectors.md 2.5. -/

theorem test_decode_crc :
    decode [0x00#8, 0x00#8] = .ok .crcInit ∧ decode [0x01#8, 0x00#8, 0x41#8] = .ok (.crcByte 0x41#8) ∧
    decode [0x02#8, 0x00#8] = .ok .crcRead ∧
    decode [0x03#8, 0x00#8, 0x02#8, 0xC5#8, 0xCD#8] = .ok (.crc16 [0xC5#8, 0xCD#8]) := by decide +kernel

theorem test_decode_bytestream :
    decode [0x10#8, 0x00#8, 0x00#8, 0x80#8, 0x4B#8, 0x08#8, 0x00#8, 0x01#8, 0x00#8] = .ok (.bsOpen .host cfg .ok) ∧
    decode [0x11#8, 0x00#8, 0x01#8] = .ok (.bsClose .slave) ∧
    decode [0x12#8, 0x00#8, 0x02#8, 0x01#8, 0x55#8] = .ok (.bsWrite .master [0x55#8]) ∧
    decode [0x13#8, 0x00#8, 0x00#8] = .ok (.bsReadAvailable .host) ∧
    decode [0x14#8, 0x00#8, 0x01#8] = .ok (.bsReadLine .slave) ∧
    decode [0x15#8, 0x00#8, 0x02#8] = .ok (.bsBytesAvailable .master) ∧
    decode [0x16#8, 0x00#8, 0x00#8, 0x64#8] = .ok (.bsWaitReady .host 100) := by decide +kernel

theorem test_decode_can :
    decode [0x20#8, 0x00#8] = .ok .canStart ∧ decode [0x21#8, 0x00#8] = .ok .canStop ∧
    decode [0x22#8, 0x00#8] = .ok .canReadFrame ∧ decode [0x23#8, 0x00#8] = .ok .canReadAllFrames ∧
    decode [0x24#8, 0x00#8] = .ok .canBufferedCount ∧ decode [0x25#8, 0x00#8] = .ok .canReceivedCount ∧
    decode [0x26#8, 0x00#8] = .ok .canDroppedCount := by decide +kernel

theorem test_decode_slave_host :
    decode [0x30#8, 0x00#8, 0xFF#8, 0x01#8, 0xBE#8, 0xEF#8] = .ok (.slSetHoldingRegister 255 0xBEEF#16) ∧
    decode [0x31#8, 0x00#8, 0x80#8, 0x02#8] = .ok (.slGetHoldingRegister 256) ∧
    decode [0x32#8, 0x00#8, 0x08#8, 0x00#8, 0xFA#8] = .ok (.slSetInputRegister 8 0x00FA#16) ∧
    decode [0x33#8, 0x00#8, 0x08#8] = .ok (.slGetInputRegister 8) := by decide +kernel

theorem test_decode_rtu_master :
    decode [0x40#8, 0x00#8, 0x13#8, 0x0A#8] = .ok (.rmReadCoils 0x13 10) ∧
    decode [0x41#8, 0x00#8, 0x00#8, 0x08#8] = .ok (.rmReadDiscreteInputs 0 8) ∧
    decode [0x42#8, 0x00#8, 0x00#8, 0x7D#8] = .ok (.rmReadHoldingRegisters 0 125) ∧
    decode [0x43#8, 0x00#8, 0x08#8, 0x01#8] = .ok (.rmReadInputRegisters 8 1) ∧
    decode [0x44#8, 0x00#8, 0x03#8, 0x01#8] = .ok (.rmWriteSingleCoil 3 true) ∧
    decode [0x45#8, 0x00#8, 0x80#8, 0x02#8, 0x04#8, 0xD2#8] = .ok (.rmWriteSingleRegister 256 0x04D2#16) ∧
    decode [0x46#8, 0x00#8, 0x13#8, 0x02#8, 0x01#8, 0x00#8] = .ok (.rmWriteMultipleCoils 0x13 [true, false]) ∧
    decode [0x47#8, 0x00#8, 0x01#8, 0x01#8, 0x12#8, 0x34#8] = .ok (.rmWriteMultipleRegisters 1 [0x1234#16]) := by
  decide +kernel

theorem test_decode_tcp_master :
    decode [0x50#8, 0x00#8, 0x13#8, 0x0A#8] = .ok (.tmReadCoils 0x13 10) ∧
    decode [0x51#8, 0x00#8, 0x00#8, 0x08#8] = .ok (.tmReadDiscreteInputs 0 8) ∧
    decode [0x52#8, 0x00#8, 0x00#8, 0x7D#8] = .ok (.tmReadHoldingRegisters 0 125) ∧
    decode [0x53#8, 0x00#8, 0x08#8, 0x01#8] = .ok (.tmReadInputRegisters 8 1) ∧
    decode [0x54#8, 0x00#8, 0x03#8, 0x00#8] = .ok (.tmWriteSingleCoil 3 false) ∧
    decode [0x55#8, 0x00#8, 0x00#8, 0x04#8, 0xD2#8] = .ok (.tmWriteSingleRegister 0 0x04D2#16) ∧
    decode [0x56#8, 0x00#8, 0x13#8, 0x01#8, 0x01#8] = .ok (.tmWriteMultipleCoils 0x13 [true]) ∧
    decode [0x57#8, 0x00#8, 0x01#8, 0x01#8, 0x12#8, 0x34#8] = .ok (.tmWriteMultipleRegisters 1 [0x1234#16]) ∧
    decode [0x58#8, 0x00#8, 0x01#8] = .ok (.tmConnect true) ∧ decode [0x59#8, 0x00#8] = .ok .tmDisconnect := by
  decide +kernel

theorem test_decode_events :
    decode [0x80#8, 0x00#8, 0x09#8] = .ok (.tick 10) ∧
    decode [0x81#8, 0x00#8, 0x01#8, 0x01#8, 0x41#8, 0xE2#8] = .ok (.bsRxBytes .slave [0x41#8, 0xE2#8]) ∧
    decode [0x82#8, 0x00#8, 0x00#8, 0xFF#8, 0x1F#8] = .ok (.bsTxDrain .host 4096) ∧
    decode [0x83#8, 0x00#8, 0x00#8, 0x02#8] = .ok (.bsChanError .host .resourceGone) ∧
    decode [0x84#8, 0x00#8, 0xFF#8, 0x0F#8, 0x00#8, 0x01#8, 0x01#8, 0xAA#8] =
      .ok (.canArrive ⟨2047, false, .remote, [0xAA#8]⟩) ∧
    decode [0x85#8, 0x00#8] = .ok .canThreadStep ∧ decode [0x86#8, 0x00#8] = .ok .canNormalDrain ∧
    decode [0x87#8, 0x00#8] = .ok .slSlaveRx ∧ decode [0x88#8, 0x00#8] = .ok .slGapFire ∧
    decode [0x89#8, 0x00#8] = .ok .rmMasterPoll ∧ decode [0x8A#8, 0x00#8, 0x00#8, 0x07#8] = .ok (.tmTcpRx [0x07#8]) ∧
    decode [0x8B#8, 0x00#8] = .ok .tmTcpPoll ∧ decode [0x8C#8, 0x00#8] = .ok .tmTcpPeerClose := by decide +kernel

theorem test_decode_slave_frames :
    slaveDecode [0x01#8, 0x03#8, 0x00#8, 0x00#8, 0x00#8, 0x0A#8, 0xC5#8, 0xCD#8] =
      some (.slvReadHoldingRegisters 1#8 [0#8, 0#8, 0#8, 0x0A#8]) ∧
    slaveDecode [0x01#8, 0x04#8, 0x00#8, 0x08#8, 0x00#8, 0x01#8, 0xB0#8, 0x08#8] =
      some (.slvReadInputRegisters 1#8 [0#8, 8#8, 0#8, 1#8]) ∧
    slaveDecode [0x01#8, 0x06#8, 0x00#8, 0x03#8, 0x00#8, 0x01#8, 0xB8#8, 0x0A#8] =
      some (.slvWriteSingleRegister 1#8 [0#8, 3#8, 0#8, 1#8]) ∧
    slaveDecode [0x01#8, 0x10#8, 0x00#8, 0x00#8, 0x00#8, 0x00#8, 0x00#8, 0x09#8, 0x50#8] =
      some (.slvWriteMultipleRegisters 1#8 [0#8, 0#8, 0#8, 0#8, 0#8]) ∧
    slaveDecode [0x01#8, 0x83#8, 0x00#8, 0x00#8, 0xF0#8, 0x30#8] = some (.slvUnsupportedFunction 1#8 0x83#8 [0#8, 0#8]) ∧
    slaveDecode [0x01#8, 0x03#8, 0x00#8] = none ∧
    slaveDecode [0x01#8, 0x06#8, 0x00#8, 0x00#8, 0x04#8, 0xD2#8, 0x57#8, 0x0B#8] = none := by decide +kernel

theorem test_decode_slave_records :
    decode [0x03#8, 0x01#8, 0x05#8, 0x01#8, 0x77#8] = .ok (.slvReadHoldingRegisters 5#8 [0x77#8]) ∧
    decode [0x04#8, 0x01#8, 0x05#8, 0x00#8] = .ok (.slvReadInputRegisters 5#8 []) ∧
    decode [0x06#8, 0x01#8, 0x05#8, 0x00#8] = .ok (.slvWriteSingleRegister 5#8 []) ∧
    decode [0x10#8, 0x01#8, 0x05#8, 0x00#8] = .ok (.slvWriteMultipleRegisters 5#8 []) ∧
    decode [0x2B#8, 0x01#8, 0x05#8, 0x00#8] = .ok (.slvUnsupportedFunction 5#8 0x2B#8 []) ∧
    decode [0x83#8, 0x02#8, 0x03#8, 0x02#8] = .ok (.exceptionResponseBuild 0x03#8 .illegalDataAddress) ∧
    decode [0x83#8, 0x05#8, 0x01#8, 0x0B#8] = .ok (.exceptionResponseDecode .tcp 0x03#8 0x0B#8) := by decide +kernel

theorem test_decode_rtu_wire :
    decode [0x01#8, 0x03#8, 0x00#8, 0x00#8, 0x13#8, 0x00#8, 0x0A#8] = .ok (.rtuReadCoils (.request ⟨0x13#16, 10#16⟩)) ∧
    decode [0x02#8, 0x03#8, 0x00#8, 0x00#8, 0x00#8, 0x00#8, 0x08#8] =
      .ok (.rtuReadDiscreteInputs (.request ⟨0#16, 8#16⟩)) ∧
    decode [0x03#8, 0x03#8, 0x01#8, 0x01#8, 0x01#8, 0x14#8] = .ok (.rtuReadHoldingRegisters (.response 1#8 [0x14#8])) ∧
    decode [0x04#8, 0x03#8, 0x01#8, 0x01#8, 0x00#8] = .ok (.rtuReadInputRegisters (.response 1#8 [])) ∧
    decode [0x05#8, 0x03#8, 0x00#8, 0x00#8, 0xAC#8, 0x01#8] = .ok (.rtuWriteSingleCoil (.request ⟨0xAC#16, true⟩)) ∧
    decode [0x06#8, 0x03#8, 0x00#8, 0x00#8, 0x00#8, 0x04#8, 0xD2#8] =
      .ok (.rtuWriteSingleRegister (.request ⟨0#16, 0x04D2#16⟩)) ∧
    decode [0x0F#8, 0x03#8, 0x00#8, 0x00#8, 0x13#8, 0x01#8, 0x01#8] =
      .ok (.rtuWriteMultipleCoils (.request ⟨0x13#16, [true]⟩)) ∧
    decode [0x10#8, 0x03#8, 0x00#8, 0x00#8, 0x01#8, 0x01#8, 0x00#8, 0x0A#8] =
      .ok (.rtuWriteMultipleRegisters (.request ⟨1#16, [0x000A#16]⟩)) := by decide +kernel

theorem test_decode_tcp_wire :
    decode [0x01#8, 0x04#8, 0x00#8, 0x00#8, 0x13#8, 0x00#8, 0x0A#8] = .ok (.tcpReadCoils (.request ⟨0x13#16, 10#16⟩)) ∧
    decode [0x02#8, 0x04#8, 0x00#8, 0x00#8, 0x00#8, 0x00#8, 0x08#8] =
      .ok (.tcpReadDiscreteInputs (.request ⟨0#16, 8#16⟩)) ∧
    decode [0x03#8, 0x04#8, 0x01#8, 0x00#8, 0x05#8, 0x00#8, 0x00#8, 0x01#8, 0x01#8, 0x02#8] =
      .ok (.tcpReadHoldingRegisters (.response ⟨5#16, 0#16, 1#8⟩ [0x02#8])) ∧
    decode [0x04#8, 0x04#8, 0x01#8, 0x00#8, 0x05#8, 0x00#8, 0x00#8, 0x01#8, 0x00#8] =
      .ok (.tcpReadInputRegisters (.response ⟨5#16, 0#16, 1#8⟩ [])) ∧
    decode [0x05#8, 0x04#8, 0x00#8, 0x00#8, 0xAC#8, 0x00#8] = .ok (.tcpWriteSingleCoil (.request ⟨0xAC#16, false⟩)) ∧
    decode [0x06#8, 0x04#8, 0x00#8, 0x00#8, 0x00#8, 0x04#8, 0xD2#8] =
      .ok (.tcpWriteSingleRegister (.request ⟨0#16, 0x04D2#16⟩)) ∧
    decode [0x0F#8, 0x04#8, 0x00#8, 0x00#8, 0x13#8, 0x01#8, 0x01#8] =
      .ok (.tcpWriteMultipleCoils (.request ⟨0x13#16, [true]⟩)) ∧
    decode [0x10#8, 0x04#8, 0x00#8, 0x00#8, 0x01#8, 0x01#8, 0x00#8, 0x0A#8] =
      .ok (.tcpWriteMultipleRegisters (.request ⟨1#16, [0x000A#16]⟩)) := by decide +kernel

/-- What encodes no operation is refused by name. -/
theorem test_decode_refuses :
    decode [] = .error .emptyRecord ∧ decode [0x00#8] = .error .emptyRecord ∧
    decode [0x00#8, 0x06#8] = .error .unassignedSpace ∧ decode [0x04#8, 0x00#8] = .error .unassignedOpcode ∧
    decode [0x8D#8, 0x00#8] = .error .unassignedOpcode ∧ decode [0x07#8, 0x03#8] = .error .unassignedOpcode ∧
    decode [0x01#8, 0x00#8] = .error .truncated ∧ decode [0x11#8, 0x00#8, 0x03#8] = .error .badOperand ∧
    decode [0x84#8, 0x00#8, 0x80#8, 0x10#8, 0x00#8, 0x00#8, 0x00#8] = .error .badOperand ∧
    decode [0x00#8, 0x00#8, 0x01#8] = .error .trailingBytes := by decide +kernel

/-- The interface words: an 8-bit table word is a host operation or event, a 16-bit one names its space too. -/
theorem test_table_words :
    decodeTableWord 8 0x88 = some .slGapFire ∧ decodeTableWord 8 0x80 = some (.tick 1) ∧
    decodeTableWord 16 0x0103 = some (.slvReadHoldingRegisters 0#8 []) ∧ decodeTableWord 8 0x0F = none := by decide +kernel

/-- `step` runs exactly the word laid down: the first step after reset. -/
theorem test_withFetchWord :
    (stepped (State.reset.withFetchWord 8 0x80)).map (fun t => (t.now, t.inbox)) = some (1, []) := by decide +kernel

/-! ### The CRC16 unit (95_test_vectors.md 2.1, P2) -/

theorem test_crc_init : (run .crcInit { State.reset with crcAcc := 0x1234#16 }).map (·.crcAcc) = some 0xFFFF#16 := by
  decide +kernel
theorem test_crc_byte_01 : (run (.crcByte 0x01#8) State.reset).map (·.crcAcc) = some 0x807E#16 := by decide +kernel
theorem test_crc_byte_CD : (run (.crcByte 0xCD#8) { State.reset with crcAcc := 0x00CD#16 }).map (·.crcAcc) = some 0#16 := by
  decide +kernel
theorem test_crc_read : (run .crcRead { State.reset with crcAcc := 0xCDC5#16 }).map resultsOf = some [.u16 0xCDC5#16] := by
  decide +kernel
/-- "123456789" and the empty sequence; the accumulator is not touched. -/
theorem test_crc16 :
    (run (.crc16 [0x31#8, 0x32#8, 0x33#8, 0x34#8, 0x35#8, 0x36#8, 0x37#8, 0x38#8, 0x39#8])
      { State.reset with crcAcc := 7#16 }).map (fun t => (resultsOf t, t.crcAcc)) = some ([.u16 0x4B37#16], 7#16) ∧
    (run (.crc16 []) State.reset).map resultsOf = some [.u16 0xFFFF#16] := by decide +kernel

/-! ### The Byte-Stream Channel (2.2) -/

theorem test_bs_open :
    (run (.bsOpen .host cfg .ok) State.reset).map (fun t => (t.bs.state, noticesOf t, resultsOf t)) =
      some (.opened, [.connected], [.bool true]) ∧
    (run (.bsOpen .host cfg .permission) State.reset).map (fun t => (t.bs.state, noticesOf t, resultsOf t)) =
      some (.errored, [.error .permission], [.bool false]) := by decide +kernel
theorem test_bs_open_refused :
    (run (.bsOpen .host { cfg with dataBits := 9 } .ok) State.reset).map (fun t => (t.bs.state, noticesOf t, resultsOf t)) =
      some (.closed, [.error .configurationError], [.bool false]) ∧
    (run (.bsOpen .host cfg .ok) (opened [1#8] [])).map (fun t => (t.bs.rb, noticesOf t, resultsOf t)) =
      some ([1#8], [], [.bool false]) := by decide +kernel
theorem test_bs_close :
    (run (.bsClose .host) (opened [] [1#8, 2#8])).map (fun t => (t.bs.state, t.bs.wq, t.bs.tx, noticesOf t)) =
      some (.closed, [], [], [.disconnected]) ∧
    (run (.bsClose .host) (onChan .host (chWith .errored [] []))).map (fun t => (t.bs.state, noticesOf t)) =
      some (.closed, []) := by decide +kernel
theorem test_bs_write :
    (run (.bsWrite .host [1#8, 2#8]) (opened [] [0xAA#8])).map (fun t => (t.bs.wq, resultsOf t)) =
      some ([0xAA#8, 1#8, 2#8], [.count 2]) ∧
    (run (.bsWrite .host [1#8]) State.reset).map (fun t => (t.bs.wq, resultsOf t)) = some ([], [.count 0]) := by
  decide +kernel
theorem test_bs_readAvailable :
    (run (.bsReadAvailable .host) (opened [0x58#8] [])).map (fun t => (t.bs.rb, resultsOf t)) =
      some ([], [.bytes [0x58#8]]) := by decide +kernel
theorem test_bs_readLine :
    (run (.bsReadLine .host) (opened [0x31#8, 0x32#8, 0x0A#8, 0x58#8] [])).map (fun t => (t.bs.rb, resultsOf t)) =
      some ([0x58#8], [.bytes [0x31#8, 0x32#8, 0x0A#8]]) ∧
    (run (.bsReadLine .host) (opened [0x58#8] [])).map (fun t => (t.bs.rb, resultsOf t)) = some ([0x58#8], [.bytes []]) := by
  decide +kernel
theorem test_bs_bytesAvailable :
    (run (.bsBytesAvailable .host) (opened [0x58#8] [])).map resultsOf = some [.count 1] := by decide +kernel
/-- `waitReady(100)` at 0: true at 40 when bytes are there, false at 100; the last step takes no input. -/
theorem test_bs_waitReady :
    (stepped { opened [1#8] [] with now := 40, waits := [⟨.host, 100⟩], inbox := [.operation [0x02#8, 0x00#8]] }).map
      (fun t => (resultsOf t, t.waits, t.inbox.length)) = some ([.bool true], [], 1) ∧
    (stepped { opened [] [] with now := 100, waits := [⟨.host, 100⟩] }).map
      (fun t => (resultsOf t, t.waits)) = some ([.bool false], []) := by decide +kernel
theorem test_bs_waitReady_at_the_call :
    (run (.bsWaitReady .host 100) (opened [] [])).map (fun t => (resultsOf t, t.waits)) = some ([], [⟨.host, 100⟩]) ∧
    (run (.bsWaitReady .host 0) (opened [] [])).map resultsOf = some [.bool false] := by decide +kernel
theorem test_bs_rxBytes :
    (run (.bsRxBytes .host [0x32#8, 0x0A#8]) (opened [0x31#8] [])).map (fun t => (t.bs.rb, noticesOf t)) =
      some ([0x31#8, 0x32#8, 0x0A#8], [.dataReceived 2]) ∧
    (run (.bsRxBytes .host [1#8]) State.reset).map (fun t => (t.bs.rb, noticesOf t)) = some ([], []) := by decide +kernel
/-- The eviction of the vectors with a cap of 8 in place of 65536: the newest 4 stay, and the warning counts the rest. -/
theorem test_bs_rxBytes_evicts :
    (run (.bsRxBytes .host [8#8]) { opened [0#8, 1#8, 2#8, 3#8, 4#8, 5#8, 6#8, 7#8] [] with
        params := { Config.params with readCap := 8 } }).map (fun t => (t.bs.rb, noticesOf t)) =
      some ([5#8, 6#8, 7#8, 8#8], [.readBufferWarning 5, .dataReceived 1]) := by decide +kernel
theorem test_bs_txDrain :
    (run (.bsTxDrain .host 2) (opened [] [1#8, 2#8, 3#8])).map (fun t => (t.bs.tx, t.bs.wq)) = some ([1#8, 2#8], [3#8]) ∧
    (run (.bsTxDrain .host 4) (opened [] [1#8, 2#8, 3#8])).map (fun t => (t.bs.tx, t.bs.wq)) =
      some ([], [1#8, 2#8, 3#8]) := by decide +kernel
/-- R169 and the vector of 95_test_vectors.md: after a channel error the RTU request fails at its deadline, not before, also
when the channel is open again and a valid response is there. -/
theorem test_bs_chanError_losesTheRequest :
    let response : List Byte := [0x01#8, 0x03#8, 0x02#8, 0x04#8, 0xD2#8, 0x3A#8, 0xD9#8]
    let failed := run (.bsChanError .master .resourceGone) (rtuWaiting .readHoldingRegisters 0#16 1#16 [])
    let reopened := failed.map fun t => t.setChan .master (chWith .opened response [])
    (failed.map fun t => t.rm.state) = some .awaitingResponse ∧
    ((reopened.bind fun t => run .rmMasterPoll { t with now := 999 }).map fun t => (t.rm.state, resultsOf t)) =
      some (.awaitingResponse, []) ∧
    ((reopened.bind fun t => run .rmMasterPoll { t with now := 1000 }).map fun t => (t.rm.state, resultsOf t)) =
      some (.idle, [.words []]) := by decide +kernel
/-- R326, R323, R243: after a disconnect the TCP request fails at its deadline, also when a matching frame arrives on a new
connection; the whole frames it met are consumed, and only the part of one goes back to the stream. -/
theorem test_tm_disconnect_losesTheRequest :
    let again := ((run .tmDisconnect (tcpWaiting .readHoldingRegisters 0#16 1#16 [])).bind (run (.tmConnect true))).bind
      (run (.tmTcpRx [0#8, 6#8, 0#8, 0#8, 0#8, 5#8, 1#8, 3#8, 2#8, 4#8, 0xD2#8,
        0#8, 5#8, 0#8, 0#8, 0#8, 5#8, 1#8, 3#8, 2#8, 4#8, 0xD2#8, 0#8, 6#8]))
    ((again.bind fun t => run .tmTcpPoll { t with now := 2999 }).map fun t => t.tm.state) = some .awaitingResponse ∧
    ((again.bind fun t => run .tmTcpPoll { t with now := 3000 }).map fun t =>
      (t.tm.state, (resultsOf t).getLast?, t.tm.rxs)) = some (.idle, some (.words []), [0#8, 6#8]) := by decide +kernel
theorem test_bs_chanError :
    (run (.bsChanError .host .resourceGone) (opened [1#8] [2#8])).map (fun t => (t.bs.state, t.bs.rb, t.bs.wq, noticesOf t)) =
      some (.errored, [], [], [.error .resourceGone, .disconnected]) := by decide +kernel

/-! ### The CAN unit (2.3, P5) -/

theorem test_can_start :
    (run .canStart (canWith .stopped false [] [] 7 5)).map (fun t => (t.can.thread, t.can.running, t.can.received, t.can.dropped)) =
      some (.active, true, 0, 0) ∧
    (run .canStart { canWith .stopped false [] [] 7 5 with stops := [⟨3000, false⟩] }).map (fun t => t.stops) =
      some [⟨3000, true⟩] ∧
    (run .canStart (canWith .active true [fr 1] [] 7 5)).map (fun t => (t.can.q, t.can.received)) = some ([fr 1], 7) := by
  decide +kernel
theorem test_can_stop :
    (run .canStop (canWith .active true [fr 1] [] 1 0)).map (fun t => (t.can.thread, t.can.running, t.can.q, t.stops)) =
      some (.active, false, [fr 1], [⟨3000, false⟩]) ∧
    (run .canStop (canWith .stopped false [] [] 1 0)).map (fun t => (resultsOf t, t.stops)) = some ([.void], []) := by
  decide +kernel
/-- The thread sees the cleared flag, and `stop` completes in a step of its own: the queue is emptied, the counters stay. -/
theorem test_can_stop_completes :
    (stepped { canWith .active false [fr 1] [fr 2] 1 0 with stops := [⟨3000, false⟩], inbox := [.operation [0x85#8, 0x00#8]] }).map
      (fun t => (t.can.q, t.stops)) = some ([fr 1], [⟨3000, false⟩]) ∧
    (stepped { canWith .stopped false [fr 1] [fr 2] 1 0 with stops := [⟨3000, false⟩], inbox := [.stopReturns 0] }).map
      (fun t => (t.can.q, t.can.received, t.can.devq, resultsOf t)) = some ([], 1, [fr 2], [.void]) := by decide +kernel
/-- R208, R32: at the join time a thread that ignored the flag is stopped by force; one that was started since goes on, and
its queue keeps its frame. -/
theorem test_can_stop_forced :
    (stepped { canWith .active false [] [] 0 0 with stops := [⟨3000, false⟩], now := 3000 }).map
      (fun t => (t.can.thread, t.stops)) = some (.stopped, []) ∧
    (stepped { canWith .active true [fr 1] [] 1 0 with stops := [⟨3000, true⟩], now := 3000 }).map
      (fun t => (t.can.thread, t.can.running, t.can.q, t.stops)) = some (.active, true, [fr 1], []) := by decide +kernel
theorem test_can_readFrame :
    (run .canReadFrame (canWith .active true [fr 2, fr 3, fr 4] [] 4 1)).map (fun t => (t.can.q, t.can.received, resultsOf t)) =
      some ([fr 3, fr 4], 4, [.frameOrNone (some (fr 2))]) ∧
    (run .canReadFrame (canWith .active true [] [] 0 0)).map resultsOf = some [.frameOrNone none] := by decide +kernel
theorem test_can_readAllFrames :
    (run .canReadAllFrames (canWith .active true [fr 2, fr 3, fr 4] [] 4 1)).map (fun t => (t.can.q, resultsOf t)) =
      some ([], [.frames [fr 2, fr 3, fr 4]]) := by decide +kernel
theorem test_can_counts :
    (run .canBufferedCount (canWith .active true [fr 3, fr 4] [] 5 1)).map resultsOf = some [.count 2] ∧
    (run .canReceivedCount (canWith .active true [fr 3, fr 4] [] 5 1)).map resultsOf = some [.count 5] ∧
    (run .canDroppedCount (canWith .active true [fr 3, fr 4] [] 5 1)).map resultsOf = some [.count 1] := by decide +kernel
theorem test_can_arrive :
    (run (.canArrive (fr 2)) (canWith .stopped false [] [fr 1] 0 0)).map (·.can.devq) = some [fr 1, fr 2] := by decide +kernel
theorem test_can_normalDrain :
    (run .canNormalDrain { State.reset with can := { Can.reset with vcap := 3, vbuf := [fr 1, fr 2], devq := [fr 3, fr 4] } }).map
      (fun t => (t.can.vbuf, t.can.devq, noticesOf t, t.can.received)) =
      some ([fr 2, fr 3, fr 4], [], [.frameReceived (fr 3), .frameReceived (fr 4)], 0) := by decide +kernel
theorem test_can_threadStep_drops :
    (run .canThreadStep (canWith .active true [fr 1, fr 2, fr 3] [fr 4] 3 0)).map
      (fun t => (t.can.q, t.can.received, t.can.dropped, noticesOf t)) =
      some ([fr 2, fr 3, fr 4], 4, 1, [.frameReceived (fr 4)]) ∧
    (run .canThreadStep (canWith .active true [fr 1, fr 2, fr 3] [fr 4] 3 99)).map (fun t => (t.can.dropped, noticesOf t)) =
      some (100, [.bufferOverflow 100, .frameReceived (fr 4)]) := by decide +kernel
theorem test_can_threadStep_sleeps :
    (run .canThreadStep { canWith .active true [] [] 0 0 with now := 100 }).map (fun t => (t.can.thread, t.can.wake)) =
      some (.sleeping, 110) ∧
    (run .canThreadStep (let s := canWith .sleeping true [] [fr 1] 0 0
        { s with now := 105, can := { s.can with wake := 110 } })).map (fun t => (t.can.thread, t.can.devq)) =
      some (.sleeping, [fr 1]) := by decide +kernel

/-! ### The frame parser (2.4) -/

theorem test_rtuCheck :
    rtuCheck [1#8, 3#8, 0#8] 1#8 = .error .tooShort ∧
    rtuCheck [0x01#8, 0x07#8, 0x41#8, 0xE2#8] 1#8 = .ok ⟨1#8, 7#8, []⟩ ∧
    rtuCheck [0x01#8, 0x06#8, 0x00#8, 0x00#8, 0x04#8, 0xD3#8, 0x0B#8, 0x57#8] 1#8 = .error .badCrc ∧
    rtuCheck [0x02#8, 0x03#8, 0x00#8, 0x00#8, 0x00#8, 0x01#8, 0x84#8, 0x39#8] 5#8 = .error .otherUnit ∧
    rtuCheck [0x00#8, 0x06#8, 0x00#8, 0x00#8, 0x00#8, 0x01#8, 0x49#8, 0xDB#8] 1#8 = .error .otherUnit := by decide +kernel
theorem test_mbapSplit :
    mbapSplit [0#8, 5#8, 0#8, 0#8, 0#8] = none ∧
    mbapSplit [0#8, 5#8, 0#8, 0#8, 0#8, 5#8, 1#8, 3#8, 2#8, 4#8] = none ∧
    mbapSplit [0#8, 5#8, 0#8, 0#8, 0#8, 0#8, 0xAA#8] = some ([0#8, 5#8, 0#8, 0#8, 0#8, 0#8], [0xAA#8]) := by decide +kernel
theorem test_mbapMatch :
    mbapMatch [0#8, 5#8, 0#8, 0#8, 0#8, 5#8, 1#8, 3#8, 2#8, 4#8, 0xD2#8] 5#16 1#8 = some (3#8, [2#8, 4#8, 0xD2#8]) ∧
    mbapMatch [0#8, 6#8, 0#8, 0#8, 0#8, 5#8, 1#8, 3#8, 2#8, 4#8, 0xD2#8] 5#16 1#8 = none ∧
    mbapMatch [0#8, 5#8, 0#8, 1#8, 0#8, 5#8, 1#8, 3#8, 2#8, 4#8, 0xD2#8] 5#16 1#8 = none ∧
    mbapMatch [0#8, 5#8, 0#8, 0#8, 0#8, 5#8, 2#8, 3#8, 2#8, 4#8, 0xD2#8] 5#16 1#8 = none ∧
    mbapMatch [0#8, 5#8, 0#8, 0#8, 0#8, 1#8, 1#8] 5#16 1#8 = none := by decide +kernel
theorem test_rtuComplete :
    rtuComplete [1#8, 3#8] = none ∧ rtuComplete [1#8, 3#8, 4#8, 4#8, 0xD2#8, 0#8] = none ∧
    rtuComplete [0x01#8, 0x83#8, 0x02#8, 0xC0#8, 0xF1#8] = some 5 ∧
    rtuComplete [0x01#8, 0x06#8, 0x00#8, 0x00#8, 0x04#8, 0xD2#8, 0x0B#8, 0x57#8, 0xFF#8] = some 8 ∧
    rtuComplete [0x01#8, 0x2B#8, 0x0E#8] = none := by decide +kernel

/-! ### The RTU slave (2.5) -/

theorem test_slave_readHolding :
    answers (slaveWith 1#8 [0x04D2#16] [] [0x01#8, 0x03#8, 0x00#8, 0x00#8, 0x00#8, 0x02#8, 0xC4#8, 0x0B#8]) =
      some ([0x01#8, 0x03#8, 0x04#8, 0x04#8, 0xD2#8, 0x00#8, 0x00#8, 0x5B#8, 0x3A#8], [.readRequest 3#8 0 2]) := by
  decide +kernel
theorem test_slave_readHolding_refused :
    answers (slaveWith 1#8 [] [] [0x01#8, 0x03#8, 0x00#8, 0xFA#8, 0x00#8, 0x0A#8, 0xE5#8, 0xFC#8]) =
      some ([0x01#8, 0x83#8, 0x02#8, 0xC0#8, 0xF1#8], [.modbusException 3#8 2#8]) ∧
    answers (slaveWith 1#8 [] [] [0x01#8, 0x03#8, 0x00#8, 0xFA#8, 0x00#8, 0x7E#8, 0xE5#8, 0xDB#8]) =
      some ([0x01#8, 0x83#8, 0x03#8, 0x01#8, 0x31#8], [.modbusException 3#8 3#8]) := by decide +kernel
theorem test_slave_readInput :
    answers (slaveWith 5#8 [] [0#16, 0#16, 0x0102#16, 0x0304#16] [0x05#8, 0x04#8, 0x00#8, 0x02#8, 0x00#8, 0x02#8, 0xD1#8, 0x8F#8]) =
      some ([0x05#8, 0x04#8, 0x04#8, 0x01#8, 0x02#8, 0x03#8, 0x04#8, 0x1F#8, 0x4B#8], [.readRequest 4#8 2 2]) := by
  decide +kernel
theorem test_slave_writeSingle :
    (run .slGapFire (slaveWith 1#8 [] [] [0x01#8, 0x06#8, 0x00#8, 0x00#8, 0x04#8, 0xD2#8, 0x0B#8, 0x57#8])).map
      (fun t => (t.sl.hr.getD 0 0#16, t.sl.bs.wq, noticesOf t)) =
      some (0x04D2#16, [0x01#8, 0x06#8, 0x00#8, 0x00#8, 0x04#8, 0xD2#8, 0x0B#8, 0x57#8], [.writeRequest 0 0x04D2#16]) := by
  decide +kernel
theorem test_slave_writeSingle_refused :
    answers (slaveWith 1#8 [] [] [0x01#8, 0x06#8, 0x01#8, 0x00#8, 0x00#8, 0x01#8, 0x49#8, 0xF6#8]) =
      some ([0x01#8, 0x86#8, 0x02#8, 0xC3#8, 0xA1#8], [.modbusException 6#8 2#8]) ∧
    answers (slaveWith 1#8 [] [] [0x01#8, 0x06#8, 0x00#8, 0x00#8, 0x04#8, 0x18#8, 0x8B#8]) =
      some ([0x01#8, 0x86#8, 0x03#8, 0x02#8, 0x61#8], [.modbusException 6#8 3#8]) := by decide +kernel
theorem test_slave_writeMultiple :
    (run .slGapFire (slaveWith 1#8 [] []
      [0x01#8, 0x10#8, 0x00#8, 0x01#8, 0x00#8, 0x02#8, 0x04#8, 0x00#8, 0x0A#8, 0x01#8, 0x02#8, 0x92#8, 0x30#8])).map
      (fun t => (t.sl.hr.take 4, t.sl.bs.wq, noticesOf t)) =
      some ([0#16, 0x000A#16, 0x0102#16, 0#16], [0x01#8, 0x10#8, 0x00#8, 0x01#8, 0x00#8, 0x02#8, 0x10#8, 0x08#8],
        [.writeRequest 1 0x000A#16, .writeRequest 2 0x0102#16]) := by decide +kernel
theorem test_slave_writeMultiple_refused :
    answers (slaveWith 1#8 [] [] [0x01#8, 0x10#8, 0x00#8, 0x01#8, 0x00#8, 0x02#8, 0x03#8, 0x00#8, 0x0A#8, 0x01#8, 0x42#8, 0x26#8]) =
      some ([0x01#8, 0x90#8, 0x03#8, 0x0C#8, 0x01#8], [.modbusException 0x10#8 3#8]) ∧
    (run .slGapFire (slaveWith 1#8 [] []
      [0x01#8, 0x10#8, 0x00#8, 0xFF#8, 0x00#8, 0x02#8, 0x04#8, 0x00#8, 0x01#8, 0x00#8, 0x02#8, 0x6C#8, 0xAA#8])).map
      (fun t => (t.sl.hr.getD 255 7#16, t.sl.bs.wq)) = some (0#16, [0x01#8, 0x90#8, 0x02#8, 0xCD#8, 0xC1#8]) := by
  decide +kernel
theorem test_slave_unsupported :
    answers (slaveWith 1#8 [] [] [0x01#8, 0x07#8, 0xFF#8, 0xFF#8, 0x00#8, 0x01#8, 0x75#8, 0xEE#8]) =
      some ([0x01#8, 0x87#8, 0x01#8, 0x82#8, 0x30#8], [.modbusException 7#8 1#8]) ∧
    answers (slaveWith 1#8 [] [] [0x01#8, 0x83#8, 0x00#8, 0x00#8, 0xF0#8, 0x30#8]) =
      some ([0x01#8, 0x83#8, 0x01#8, 0x80#8, 0xF0#8], [.modbusException 3#8 1#8]) := by decide +kernel
/-- A failed CRC and another unit: silence, and the frame is gone. -/
theorem test_slave_silent :
    (run .slGapFire (slaveWith 1#8 [] [] [0x01#8, 0x06#8, 0x00#8, 0x00#8, 0x04#8, 0xD3#8, 0x0B#8, 0x57#8])).map
      (fun t => (t.sl.bs.wq, t.out, t.sl.asm, t.sl.gapArmed)) = some ([], [], [], false) ∧
    answers (slaveWith 5#8 [] [] [0x02#8, 0x03#8, 0x00#8, 0x00#8, 0x00#8, 0x01#8, 0x84#8, 0x39#8]) = some ([], []) := by
  decide +kernel
theorem test_exceptionResponse_build :
    (run (.exceptionResponseBuild 0x03#8 .illegalDataAddress) (slaveWith 1#8 [] [] [])).map (·.sl.bs.wq) =
      some [0x01#8, 0x83#8, 0x02#8, 0xC0#8, 0xF1#8] := by decide +kernel
/-- On a channel in `Error` the register is still written and the notification raised; the response is lost. -/
theorem test_slave_response_lost :
    (run (.slvWriteSingleRegister 1#8 [0#8, 0#8, 4#8, 0xD2#8])
      (let s := slaveWith 1#8 [] [] []; { s with sl := { s.sl with bs := chWith .errored [] [] } })).map
      (fun t => (t.sl.hr.getD 0 0#16, noticesOf t, t.sl.bs.wq)) = some (0x04D2#16, [.writeRequest 0 0x04D2#16], []) := by
  decide +kernel
/-- `SlaveRx` at 200 sets the deadline 250; `GapFire` is not enabled at 249. -/
theorem test_slave_gap :
    (run .slSlaveRx { onChan .slave (chWith .opened [1#8, 6#8] []) with now := 200 }).map
      (fun t => (t.sl.asm, t.sl.bs.rb, t.sl.gapArmed, t.sl.gapDeadline)) = some ([1#8, 6#8], [], true, 250) ∧
    (run .slGapFire (let s := slaveWith 1#8 [] [] [1#8]
        { s with now := 249, sl := { s.sl with gapDeadline := 250 } })).map (·.sl.asm) = some [1#8] := by decide +kernel
theorem test_slave_setHolding :
    (run (.slSetHoldingRegister 255 0xBEEF#16) State.reset).map (fun t => (t.sl.hr.getD 255 0#16, resultsOf t)) =
      some (0xBEEF#16, [.bool true]) ∧
    (run (.slSetHoldingRegister 256 1#16) State.reset).map resultsOf = some [.bool false] := by decide +kernel
theorem test_slave_getHolding :
    (run (.slGetHoldingRegister 1) (slaveWith 1#8 [0#16, 7#16] [] [])).map resultsOf = some [.valueOrNone (some 7#16)] ∧
    (run (.slGetHoldingRegister 256) State.reset).map resultsOf = some [.valueOrNone none] := by decide +kernel
theorem test_slave_inputs :
    (run (.slSetInputRegister 8 0x00FA#16) State.reset).map (fun t => (t.sl.ir.getD 8 0#16, t.sl.hr.getD 8 0#16)) =
      some (0x00FA#16, 0#16) ∧
    (run (.slGetInputRegister 1) (slaveWith 1#8 [] [0#16, 7#16] [])).map resultsOf = some [.valueOrNone (some 7#16)] := by
  decide +kernel

/-! ### The RTU master (2.6) -/

/-- The bytes an RTU request puts on the line. -/
def rtuLine (i : Instr) : Option (List Byte) := (run i rtuIdle).map (·.rm.bs.wq)

/-- How a waiting RTU master ends on these bytes. -/
def rtuResult (fc : FunctionCode) (first second : Word) (rb : List Byte) : Option (List Result × List Notice × MasterState) :=
  (run .rmMasterPoll (rtuWaiting fc first second rb)).map fun t => (resultsOf t, noticesOf t, t.rm.state)

theorem test_rtu_requests_read :
    rtuLine (.rmReadCoils 0x13 0x13) = some [0x01#8, 0x01#8, 0x00#8, 0x13#8, 0x00#8, 0x13#8, 0x8C#8, 0x02#8] ∧
    rtuLine (.rmReadDiscreteInputs 0 8) = some [0x01#8, 0x02#8, 0x00#8, 0x00#8, 0x00#8, 0x08#8, 0x79#8, 0xCC#8] ∧
    rtuLine (.rmReadHoldingRegisters 0 10) = some [0x01#8, 0x03#8, 0x00#8, 0x00#8, 0x00#8, 0x0A#8, 0xC5#8, 0xCD#8] ∧
    rtuLine (.rmReadInputRegisters 8 1) = some [0x01#8, 0x04#8, 0x00#8, 0x08#8, 0x00#8, 0x01#8, 0xB0#8, 0x08#8] := by
  decide +kernel
theorem test_rtu_requests_write :
    rtuLine (.rmWriteSingleCoil 0xAC true) = some [0x01#8, 0x05#8, 0x00#8, 0xAC#8, 0xFF#8, 0x00#8, 0x4C#8, 0x1B#8] ∧
    rtuLine (.rmWriteSingleRegister 256 1#16) = some [0x01#8, 0x06#8, 0x01#8, 0x00#8, 0x00#8, 0x01#8, 0x49#8, 0xF6#8] ∧
    rtuLine (.rmWriteMultipleCoils 0x13 [true, false, true, true, false, false, true, true, true, false]) =
      some [0x01#8, 0x0F#8, 0x00#8, 0x13#8, 0x00#8, 0x0A#8, 0x02#8, 0xCD#8, 0x01#8, 0x72#8, 0xCB#8] ∧
    rtuLine (.rmWriteMultipleRegisters 0 [0x1234#16, 0x5678#16]) =
      some [0x01#8, 0x10#8, 0x00#8, 0x00#8, 0x00#8, 0x02#8, 0x04#8, 0x12#8, 0x34#8, 0x56#8, 0x78#8, 0x88#8, 0x9B#8] := by
  decide +kernel
theorem test_rtu_requests_wire :
    rtuLine (.rtuReadCoils (.request ⟨0#16, 1#16⟩)) = some [0x01#8, 0x01#8, 0x00#8, 0x00#8, 0x00#8, 0x01#8, 0xFD#8, 0xCA#8] ∧
    rtuLine (.rtuWriteSingleCoil (.request ⟨3#16, false⟩)) =
      some [0x01#8, 0x05#8, 0x00#8, 0x03#8, 0x00#8, 0x00#8, 0x3D#8, 0xCA#8] ∧
    rtuLine (.rtuWriteMultipleRegisters (.request ⟨1#16, [0x000A#16, 0x0102#16]⟩)) =
      some [0x01#8, 0x10#8, 0x00#8, 0x01#8, 0x00#8, 0x02#8, 0x04#8, 0x00#8, 0x0A#8, 0x01#8, 0x02#8, 0x92#8, 0x30#8] := by
  decide +kernel
theorem test_rtu_refusals :
    (run (.rmReadHoldingRegisters 0 126) rtuIdle).map (fun t => (resultsOf t, t.rm.bs.wq)) = some ([.words []], []) ∧
    (run (.rmReadHoldingRegisters 0 0) rtuIdle).map resultsOf = some [.words []] ∧
    (run (.rmReadCoils 0 1) (rtuWaiting .readHoldingRegisters 0#16 10#16 [])).map (fun t => (resultsOf t, t.rm.bs.wq, t.rm.state)) =
      some ([.bools []], [], .awaitingResponse) := by decide +kernel
theorem test_rtu_responses_read :
    rtuResult .readCoils 0#16 10#16 [0x01#8, 0x01#8, 0x02#8, 0x35#8, 0x02#8, 0x2F#8, 0x6D#8] =
      some ([.bools [true, false, true, false, true, true, false, false, false, true]], [], .idle) ∧
    rtuResult .readDiscreteInputs 0#16 8#16 [0x01#8, 0x02#8, 0x01#8, 0xA5#8, 0x61#8, 0xF3#8] =
      some ([.bools [true, false, true, false, false, true, false, true]], [], .idle) ∧
    rtuResult .readHoldingRegisters 0#16 1#16 [0x01#8, 0x03#8, 0x02#8, 0x04#8, 0xD2#8, 0x3A#8, 0xD9#8] =
      some ([.words [0x04D2#16]], [], .idle) ∧
    rtuResult .readInputRegisters 8#16 1#16 [0x01#8, 0x04#8, 0x02#8, 0x00#8, 0xFA#8, 0x39#8, 0x73#8] =
      some ([.words [0x00FA#16]], [], .idle) := by decide +kernel
theorem test_rtu_responses_write :
    rtuResult .writeSingleCoil 0xAC#16 0xFF00#16 [0x01#8, 0x05#8, 0x00#8, 0xAC#8, 0xFF#8, 0x00#8, 0x4C#8, 0x1B#8] =
      some ([.bool true], [], .idle) ∧
    rtuResult .writeSingleRegister 0#16 0x04D2#16 [0x01#8, 0x06#8, 0x00#8, 0x03#8, 0x00#8, 0x01#8, 0xB8#8, 0x0A#8] =
      some ([.bool false], [], .idle) ∧
    rtuResult .writeMultipleCoils 0x13#16 10#16 [0x01#8, 0x0F#8, 0x00#8, 0x13#8, 0x00#8, 0x0A#8, 0x24#8, 0x09#8] =
      some ([.bool true], [], .idle) ∧
    rtuResult .writeMultipleRegisters 1#16 2#16 [0x01#8, 0x10#8, 0x00#8, 0x01#8, 0x00#8, 0x02#8, 0x10#8, 0x08#8] =
      some ([.bool true], [], .idle) := by decide +kernel
theorem test_rtu_responses_failures :
    rtuResult .readHoldingRegisters 0#16 1#16 [0x01#8, 0x83#8, 0x0B#8, 0x00#8, 0xF7#8] =
      some ([.words []], [.modbusException 3#8 0x0B#8], .idle) ∧
    rtuResult .readHoldingRegisters 0#16 1#16 [0x01#8, 0x04#8, 0x02#8, 0x04#8, 0xD2#8, 0x3B#8, 0xAD#8] =
      some ([.words []], [], .idle) ∧
    rtuResult .readHoldingRegisters 0#16 1#16 [0x01#8, 0x03#8, 0x04#8, 0x04#8, 0xD2#8, 0x00#8, 0x00#8, 0x5B#8, 0x3A#8] =
      some ([.words []], [], .idle) := by decide +kernel
/-- Another unit, and a failed CRC: the wait goes on. -/
theorem test_rtu_responses_rejected :
    rtuResult .readHoldingRegisters 0#16 1#16 [0x02#8, 0x03#8, 0x02#8, 0x04#8, 0xD2#8, 0x7E#8, 0xD9#8] =
      some ([], [], .awaitingResponse) ∧
    rtuResult .readHoldingRegisters 0#16 1#16 [0x01#8, 0x03#8, 0x02#8, 0x04#8, 0xD3#8, 0x3A#8, 0xD9#8] =
      some ([], [], .awaitingResponse) := by decide +kernel
/-- Not at 999, at 1000 (P3 steps 12 and 13). -/
theorem test_rtu_timeout :
    (run .rmMasterPoll { rtuWaiting .readHoldingRegisters 0#16 10#16 [] with now := 999 }).map (fun t => (resultsOf t, t.rm.state)) =
      some ([], .awaitingResponse) ∧
    (run .rmMasterPoll { rtuWaiting .readHoldingRegisters 0#16 10#16 [] with now := 1000 }).map (fun t => (resultsOf t, t.rm.state)) =
      some ([.words []], .idle) := by decide +kernel
theorem test_rtu_wire_response :
    (run (.rtuReadHoldingRegisters (.response 1#8 [2#8, 4#8, 0xD2#8])) (rtuWaiting .readHoldingRegisters 0#16 1#16 [])).map resultsOf =
      some [.words [0x04D2#16]] ∧
    (run (.rtuReadInputRegisters (.response 1#8 [2#8, 4#8, 0xD2#8])) (rtuWaiting .readHoldingRegisters 0#16 1#16 [])).map resultsOf =
      some [.words []] := by decide +kernel
theorem test_exceptionResponse_decode :
    (run (.exceptionResponseDecode .rtu 6#8 2#8) (rtuWaiting .writeSingleRegister 256#16 1#16 [])).map
      (fun t => (resultsOf t, noticesOf t)) = some ([.bool false], [.modbusException 6#8 2#8]) ∧
    (run (.exceptionResponseDecode .tcp 3#8 2#8) (tcpWaiting .readHoldingRegisters 0#16 1#16 [])).map
      (fun t => (resultsOf t, noticesOf t, t.tm.state)) = some ([.words []], [.modbusException 3#8 2#8], .idle) := by
  decide +kernel

/-! ### The TCP master (2.6, P4) -/

/-- The bytes a TCP request hands to the stream. -/
def tcpLine (txn : Word) (i : Instr) : Option (List Byte) := (run i (tcpIdle txn)).map (·.tm.txs)

/-- How a waiting TCP master ends on these bytes. -/
def tcpResult (fc : FunctionCode) (first second : Word) (rxs : List Byte) : Option (List Result × List Notice × MasterState) :=
  (run .tmTcpPoll (tcpWaiting fc first second rxs)).map fun t => (resultsOf t, noticesOf t, t.tm.state)

theorem test_tcp_requests_read :
    tcpLine 2#16 (.tmReadCoils 0 10) = some [0#8, 3#8, 0#8, 0#8, 0#8, 6#8, 1#8, 1#8, 0#8, 0#8, 0#8, 0x0A#8] ∧
    tcpLine 4#16 (.tmReadHoldingRegisters 0 10) = some [0#8, 5#8, 0#8, 0#8, 0#8, 6#8, 1#8, 3#8, 0#8, 0#8, 0#8, 0x0A#8] ∧
    (tcpLine 0xFFFF#16 (.tmReadInputRegisters 8 1)).map (·.take 2) = some [0#8, 0#8] ∧
    (tcpLine 0#16 (.tmReadDiscreteInputs 0 8)).map (·.drop 6) = some [1#8, 2#8, 0#8, 0#8, 0#8, 8#8] := by decide +kernel
theorem test_tcp_requests_write :
    tcpLine 0#16 (.tmWriteSingleRegister 0 0x04D2#16) =
      some [0#8, 1#8, 0#8, 0#8, 0#8, 6#8, 1#8, 6#8, 0#8, 0#8, 4#8, 0xD2#8] ∧
    tcpLine 1#16 (.tmWriteMultipleRegisters 0 [0x1234#16, 0x5678#16]) =
      some [0#8, 2#8, 0#8, 0#8, 0#8, 0x0B#8, 1#8, 0x10#8, 0#8, 0#8, 0#8, 2#8, 4#8, 0x12#8, 0x34#8, 0x56#8, 0x78#8] ∧
    (tcpLine 0#16 (.tmWriteSingleCoil 3 true)).map (·.drop 6) = some [1#8, 5#8, 0#8, 3#8, 0xFF#8, 0#8] ∧
    (tcpLine 0#16 (.tmWriteMultipleCoils 0 [true, false, true])).map (·.drop 4) =
      some [0#8, 8#8, 1#8, 0x0F#8, 0#8, 0#8, 0#8, 3#8, 1#8, 5#8] := by decide +kernel
theorem test_tcp_requests_wire :
    tcpLine 0#16 (.tcpReadCoils (.request ⟨0#16, 10#16⟩)) =
      some [0#8, 1#8, 0#8, 0#8, 0#8, 6#8, 1#8, 1#8, 0#8, 0#8, 0#8, 0x0A#8] ∧
    (tcpLine 0#16 (.tcpWriteSingleCoil (.request ⟨3#16, true⟩))).map (·.drop 6) = some [1#8, 5#8, 0#8, 3#8, 0xFF#8, 0#8] := by
  decide +kernel
theorem test_tcp_refused_without_connection :
    (run (.tmReadHoldingRegisters 0 1) State.reset).map (fun t => (resultsOf t, t.tm.txn, t.tm.txs)) =
      some ([.words []], 0#16, []) := by decide +kernel
theorem test_tcp_responses :
    tcpResult .readHoldingRegisters 0#16 1#16 [0#8, 5#8, 0#8, 0#8, 0#8, 5#8, 1#8, 3#8, 2#8, 4#8, 0xD2#8] =
      some ([.words [0x04D2#16]], [], .idle) ∧
    tcpResult .readHoldingRegisters 0#16 1#16 [0#8, 5#8, 0#8, 0#8, 0#8, 3#8, 1#8, 0x83#8, 2#8] =
      some ([.words []], [.modbusException 3#8 2#8], .idle) ∧
    tcpResult .readHoldingRegisters 0#16 1#16 [0#8, 6#8, 0#8, 0#8, 0#8, 5#8, 1#8, 3#8, 2#8, 0xFF#8, 0xFF#8] =
      some ([], [], .awaitingResponse) ∧
    tcpResult .readHoldingRegisters 0#16 1#16 [0#8, 5#8, 0#8, 0#8, 0#8, 5#8, 1#8, 3#8] = some ([], [], .awaitingResponse) := by
  decide +kernel
/-- A frame of another transaction is consumed, the matching one found behind it, and what follows stays in the stream. -/
theorem test_tcp_poll_skips :
    (run .tmTcpPoll (tcpWaiting .writeSingleRegister 0#16 0x04D2#16
      [0#8, 6#8, 0#8, 0#8, 0#8, 2#8, 1#8, 6#8, 0#8, 5#8, 0#8, 0#8, 0#8, 6#8, 1#8, 6#8, 0#8, 0#8, 4#8, 0xD2#8, 0x99#8])).map
      (fun t => (resultsOf t, t.tm.rxs)) = some ([.bool true], [0x99#8]) := by decide +kernel
theorem test_tcp_connect :
    (run (.tmConnect true) State.reset).map (fun t => (t.tm.conn, noticesOf t, resultsOf t)) =
      some (true, [.connected], [.bool true]) ∧
    (run (.tmConnect false) State.reset).map (fun t => (t.tm.conn, noticesOf t, resultsOf t)) =
      some (false, [.error .connectionError], [.bool false]) := by decide +kernel
theorem test_tcp_disconnect :
    (run .tmDisconnect (tcpWaiting .readCoils 0#16 1#16 [7#8])).map (fun t => (t.tm.conn, t.tm.rxs, t.tm.state, noticesOf t)) =
      some (false, [], .awaitingResponse, [.disconnected]) := by decide +kernel
theorem test_tcp_events :
    (run (.tmTcpRx [8#8]) (tcpWaiting .readCoils 0#16 1#16 [7#8])).map (·.tm.rxs) = some [7#8, 8#8] ∧
    (run .tmTcpPeerClose (tcpIdle 0#16)).map (fun t => (t.tm.conn, noticesOf t)) =
      some (false, [.error .connectionError, .disconnected]) := by decide +kernel

/-! ### Time and configuration (2.7; 70_reset_and_hazards.md R391, R392) -/

theorem test_tick : run (.tick 10) { State.reset with now := 240 } = some { State.reset with now := 250 } := by decide +kernel
theorem test_configure :
    ((State.reset.configure (.slAddr 248)).sl.addr, noticesOf (State.reset.configure (.slAddr 248))) =
      (1#8, [.error .configurationError]) ∧
    (State.reset.configure (.slAddr 247)).sl.addr = 247#8 ∧
    ((opened [] []).configure (.canQcap 3)).can.qcap = 3 ∧
    ((rtuWaiting .readCoils 0#16 1#16 []).configure (.rmUnit 9)).rm.unit = 1#8 := by decide +kernel

/-! ### Witnesses: for every statement with hypotheses, concrete states and operands that meet them, clause by clause -/

theorem witness_DecodeInvertsEncode :
    (Instr.tick 1).wf = true ∧ (Instr.bsTxDrain .slave 1).wf = true ∧
    (Instr.canArrive ⟨2047, false, .error, List.replicate 8 0xFF#8⟩).wf = true ∧
    (Instr.canArrive ⟨2 ^ 29 - 1, true, .data, []⟩).wf = true ∧ (Instr.slvUnsupportedFunction 0#8 0x90#8 []).wf = true ∧
    (Instr.exceptionResponseDecode .tcp 0x7F#8 0xFF#8).wf = true := by decide +kernel

theorem witness_SlaveWireCodecAgrees :
    slaveDecode [0x01#8, 0x07#8, 0x41#8, 0xE2#8] = some (.slvUnsupportedFunction 1#8 7#8 []) := by decide +kernel

theorem witness_StepRunsTheDecodedOperation :
    (∃ (s : State) (bytes : List Byte) (rest : List Input) (i : Instr),
      noCallDue s ∧ s.waits ≠ [] ∧ s.stops ≠ [] ∧ s.inbox = .operation bytes :: rest ∧ decode bytes = .ok i) ∧
    (∃ (s : State) (w : ConfigWrite) (rest : List Input), noCallDue s ∧ s.inbox = .configure w :: rest) ∧
    (∃ s : State, noCallDue s ∧ s.inbox = []) := by
  simp only [noCallDue]
  exact ⟨⟨{ opened [] [] with now := 99, waits := [⟨.host, 100⟩], stops := [⟨100, false⟩], inbox := [.operation [0x80#8, 0x00#8, 0x00#8]] },
      [0x80#8, 0x00#8, 0x00#8], [], .tick 1, by decide +kernel⟩,
    ⟨{ State.reset with inbox := [.configure (.slAddr 5)] }, .slAddr 5, [], by decide +kernel⟩,
    ⟨State.reset, by decide +kernel⟩⟩

theorem witness_NothingStopsTheBlock :
    ∃ (s : State) (r : Refusal), step s = .refused r :=
  ⟨{ State.reset with inbox := [.operation [0x04#8, 0x00#8]] }, .notAnOperation .unassignedOpcode, rfl⟩

/-- Each way a suspended call ends, at the boundary of its time: chosen (the younger of two, a `stop` of each kind), due while
none is chosen, chosen while not enabled; and a thread forced to its end. -/
theorem witness_SuspendedCallsReturnInStepsOfTheirOwn :
    (∃ (s : State) (before after : List Wait) (w : Wait) (b : Bool) (rest : List Input), before ≠ [] ∧
      s.inbox = .waitReturns before.length :: rest ∧ s.waits = before ++ w :: after ∧
      (∀ x ∈ before, waitResult s x = some b) ∧ waitResult s w = some b) ∧
    (∀ c ∈ [(⟨3000, true⟩ : StopCall), ⟨2999, false⟩], ∃ (s : State) (before after : List StopCall) (rest : List Input),
      before ≠ [] ∧ s.can.thread ≠ .stopped ∧
      s.inbox = .stopReturns before.length :: rest ∧ s.stops = before ++ c :: after ∧ stopDone s c) ∧
    (∃ (s : State) (before after : List StopCall) (c : StopCall) (rest : List Input), s.now < c.deadline ∧ c.joined = false ∧
      s.inbox = .stopReturns before.length :: rest ∧ s.stops = before ++ c :: after ∧ stopDone s c) ∧
    (∃ (s : State) (before after : List Wait) (w : Wait) (b : Bool), s.inbox = [] ∧ before ≠ [] ∧
      s.waits = before ++ w :: after ∧ (∀ x ∈ before, waitResult s x = none) ∧ waitResult s w = some b) ∧
    (∃ (s : State) (before after : List StopCall) (c : StopCall), s.inbox = [] ∧ before ≠ [] ∧
      (∀ w ∈ s.waits, waitResult s w = none) ∧ s.stops = before ++ c :: after ∧ (∀ x ∈ before, s.now < x.deadline) ∧
      c.deadline ≤ s.now) ∧
    (∃ s : State, noCallDue s ∧ s.inbox = [.stopReturns 0] ∧ ∃ c, s.stops = [c] ∧ ¬ stopDone s c) ∧
    (∃ s t : State, s.canOk ∧ step s = .next t ∧ s.can.thread ≠ .stopped ∧ t.can.thread = .stopped) := by
  simp only [noCallDue, stopDone, State.canOk]
  refine ⟨⟨{ opened [] [] with now := 100, waits := [⟨.host, 100⟩, ⟨.host, 100⟩], inbox := [.waitReturns 1] }, [⟨.host, 100⟩], [],
      ⟨.host, 100⟩, false, [], by decide +kernel⟩, ?_,
    ⟨{ canWith .stopped false [] [] 0 0 with stops := [⟨3000, false⟩], now := 2999, inbox := [.stopReturns 0] }, [], [],
      ⟨3000, false⟩, [], by decide +kernel⟩,
    ⟨{ opened [] [] with now := 100, waits := [⟨.host, 101⟩, ⟨.host, 100⟩] }, [⟨.host, 101⟩], [], ⟨.host, 100⟩, false,
      by decide +kernel⟩,
    ⟨{ canWith .active false [] [] 0 0 with stops := [⟨3001, false⟩, ⟨3000, false⟩], now := 3000 }, [⟨3001, false⟩], [],
      ⟨3000, false⟩, by decide +kernel⟩,
    ⟨{ canWith .active false [] [] 0 0 with stops := [⟨3000, false⟩], now := 2999, inbox := [.stopReturns 0] }, by decide +kernel,
      rfl, ⟨3000, false⟩, by decide +kernel⟩,
    ⟨{ canWith .active false [] [] 0 0 with stops := [⟨3000, false⟩], now := 3000 }, _, by decide +kernel, rfl,
      by decide +kernel, by decide +kernel⟩⟩
  intro c hc
  refine ⟨{ canWith .active true [] [] 0 0 with stops := [⟨3001, true⟩, c], now := 2999, inbox := [.stopReturns 1] },
    [⟨3001, true⟩], [], [], ?_⟩
  simp only [List.mem_cons, List.not_mem_nil, or_false] at hc
  rcases hc with rfl | rfl <;> decide +kernel

theorem witness_CrcStreamingAgreesWithFunction :
    ∃ (a b : List Byte) (s t : State), s.crcAcc = crc16 a ∧ execAll (b.map .crcByte) s = .next t :=
  ⟨[1#8], [3#8], { State.reset with crcAcc := 0x807E#16 },
    traced { State.reset with crcAcc := 0x2140#16 } [] [returned .crc 0x01#8 .void], by decide +kernel, by rfl⟩

theorem witness_CrcResidueDetectsErrors :
    2 ≤ [0xFF#8, 0xFF#8].length ∧ crc16 [0xFF#8, 0xFF#8] = 0#16 ∧ 0 < (withCrc []).length ∧ 1 < (withCrc []).length := by
  decide +kernel

theorem witness_OpenAndCloseOutcomes :
    ((opened [] []).chan .host).state = .opened ∧
    ((State.reset).chan .host).state ≠ .opened ∧ ((onChan .slave (chWith .errored [] [])).chan .slave).state ≠ .opened ∧
    serialLegal cfg ∧ serialLegal ⟨1, 5, .odd, 2⟩ ∧
    ¬ serialLegal { cfg with dataBits := 9 } ∧ ¬ serialLegal { cfg with dataBits := 4 } ∧
    ¬ serialLegal { cfg with stopBits := 0 } ∧ ¬ serialLegal { cfg with parity := .illegal } ∧
    ¬ serialLegal { cfg with baud := 0 } := by
  refine ⟨by decide +kernel, by decide +kernel, by decide +kernel, ?_, ?_, ?_, ?_, ?_, ?_, ?_⟩ <;> simp [serialLegal, cfg]

theorem witness_HostMovesBytes :
    ((opened [0x31#8, 0x0A#8, 0x58#8] []).chan .host).state = .opened ∧
    State.reset.params.lineTerm ∉ [0x31#8] ∧
    ((opened [0x31#8, 0x0A#8, 0x58#8] []).chan .host).rb = [0x31#8] ++ State.reset.params.lineTerm :: [0x58#8] ∧
    ((opened [0x31#8] []).chan .host).state = .opened ∧ ((opened [0x31#8] []).chan .host).rb = [0x31#8] := by
  decide +kernel

theorem witness_WaitReadyAtTheCall :
    (State.reset.chan .master).state ≠ .opened ∧
    ((opened [1#8] []).chan .host).state = .opened ∧ ((opened [1#8] []).chan .host).rb ≠ [] ∧
    ((opened [] []).chan .host).state = .opened ∧ ((opened [] []).chan .host).rb = [] := by decide +kernel

/-- At the cap exactly, and one byte above it. -/
theorem witness_ArrivalsAppendOrEvict :
    let s : State := { opened [1#8, 2#8, 3#8] [] with params := { Config.params with readCap := 4 } }
    (s.chan .host).state = .opened ∧ ((s.chan .host).rb ++ [4#8]).length ≤ s.params.readCap ∧
    s.params.readCap < ((s.chan .host).rb ++ [4#8, 5#8]).length := by decide +kernel

theorem witness_TheLineTakesBytesOrFails :
    ((opened [] [1#8, 2#8]).chan .host).state = .opened ∧ 1 ≤ 2 ∧ 2 ≤ State.reset.params.writeChunk ∧
    2 ≤ ((opened [] [1#8, 2#8]).chan .host).wq.length ∧ ¬ (3 ≤ ((opened [] [1#8, 2#8]).chan .host).wq.length) := by
  decide +kernel

theorem witness_ChannelThatIsNotOpen :
    (State.reset.chan .host).state ≠ .opened ∧ ((onChan .master (chWith .errored [] [])).chan .master).state ≠ .opened := by
  decide +kernel

theorem witness_OnlyOpenCloseAndErrorsMoveAChannel :
    (run (.bsOpen .host cfg .ok) State.reset).map (fun t => (t.chan .host).state) = some .opened ∧
    (run (.bsOpen .host cfg .openFailure) State.reset).map (fun t => (t.chan .host).state) = some .errored ∧
    (run (.bsClose .host) (opened [] [])).map (fun t => (t.chan .host).state) = some .closed ∧
    (run (.bsChanError .host .timeout) (opened [] [])).map (fun t => (t.chan .host).state) = some .errored := by
  decide +kernel

theorem witness_OpenChannelsLoseNothing :
    (run (.bsTxDrain .host 1) (opened [] [1#8, 2#8])).map (fun t => ((t.chan .host).state, (t.chan .host).wq)) =
      some (.opened, [2#8]) ∧
    (run (.bsWrite .host [3#8]) (opened [] [1#8])).map (fun t => ((t.chan .host).state, (t.chan .host).wq)) =
      some (.opened, [1#8, 3#8]) := by decide +kernel

theorem witness_CanStartAndStop :
    State.reset.can.thread = .stopped ∧ (canWith .active true [] [] 0 0).can.thread ≠ .stopped ∧
    (canWith .sleeping true [] [] 0 0).can.thread ≠ .stopped := by decide +kernel

theorem witness_CanReadsActOnTheActiveBuffer :
    (∃ (s : State) (active : List CanFrame) (setActive : List CanFrame → State),
      s.can.thread = .stopped ∧ active = s.can.vbuf ∧ setActive = (fun fs => { s with can := { s.can with vbuf := fs } }) ∧
      active = []) ∧
    (∃ (s : State) (active : List CanFrame) (setActive : List CanFrame → State),
      s.can.thread ≠ .stopped ∧ active = s.can.q ∧ setActive = (fun fs => { s with can := { s.can with q := fs } }) ∧
      active = fr 1 :: [fr 2]) :=
  ⟨⟨State.reset, [], _, rfl, rfl, rfl, rfl⟩,
    ⟨canWith .active true [fr 1, fr 2] [] 2 0, [fr 1, fr 2], _, by decide +kernel, rfl, rfl, rfl⟩⟩

theorem witness_CanArrivalAndNormalPath :
    (canWith .stopped false [] [fr 1] 0 0).can.thread = .stopped ∧ (canWith .stopped false [] [fr 1] 0 0).can.devq ≠ [] ∧
    (canWith .active true [] [fr 1] 0 0).can.thread ≠ .stopped ∧ (canWith .stopped false [] [] 0 0).can.devq = [] := by
  decide +kernel

/-- Asleep one millisecond before its wake time, and at it; the queue below its capacity and at it; the drop before the
hundredth and the hundredth. -/
theorem witness_CanThreadTurn :
    (let s := canWith .sleeping true [] [] 0 0;
      ¬ (s.can.thread = .active ∨ (s.can.thread = .sleeping ∧ 110 ≤ 109)) ∧
        (s.can.thread = .active ∨ (s.can.thread = .sleeping ∧ 110 ≤ 110))) ∧
    (canWith .active false [] [] 0 0).can.running = false ∧
    (canWith .active true [] [] 0 0).can.devq = [] ∧
    (let s := canWith .active true [fr 1, fr 2] [fr 3] 2 0;
      s.can.running = true ∧ s.can.devq = fr 3 :: [] ∧ ¬ s.can.qcap ≤ s.can.q.length) ∧
    (let s := canWith .active true [fr 1, fr 2, fr 3] [fr 4] 3 98;
      s.can.qcap ≤ s.can.q.length ∧ ¬ (s.can.dropped + 1) % s.params.ovfNotifyEvery = 0) ∧
    (let s := canWith .active true [fr 1, fr 2, fr 3] [fr 4] 3 99;
      s.can.qcap ≤ s.can.q.length ∧ (s.can.dropped + 1) % s.params.ovfNotifyEvery = 0) := by decide +kernel

theorem witness_QueueKeepsTheNewestFrames :
    let s := canWith .active true [] [fr 1, fr 2, fr 3, fr 4, fr 5] 0 0
    s.can.thread = .active ∧ s.can.running = true ∧ s.can.q = [] ∧ s.can.received = 0 ∧ s.can.dropped = 0 ∧ 1 ≤ s.can.qcap ∧
      s.can.devq = [fr 1, fr 2, fr 3, fr 4, fr 5] := by decide +kernel

theorem witness_CanFramesAreAccountedFor :
    let s := canWith .active true [] [fr 1] 0 0
    s.can.thread ≠ .stopped ∧ s.can.running = true ∧ s.can.q = [] ∧ s.can.received = 0 ∧ s.can.dropped = 0 ∧ 1 ≤ s.can.qcap ∧
      ∃ t, execAll [.canThreadStep, .canArrive (fr 2), .canReadFrame, .canThreadStep, .canThreadStep, .tick 5,
        .canReceivedCount] s = .next t := by
  refine ⟨by decide +kernel, rfl, rfl, rfl, rfl, by decide +kernel, _, rfl⟩

/-- The second clause: the last step of a `stop` whose thread had ended, while the path started since holds a frame. -/
theorem witness_CanFramesAreAccountedFor_step :
    let s := { canWith .active true [fr 1] [] 1 0 with stops := [⟨3000, true⟩], inbox := [.stopReturns 0] }
    s.canOk ∧ s.can.thread ≠ .stopped ∧ ∃ t, step s = .next t ∧ t.stops = [] ∧ t.can.thread ≠ .stopped := by
  simp only [State.canOk]
  refine ⟨by decide +kernel, by decide +kernel, _, rfl, by decide +kernel⟩

/-- The counts 0, 1, 125 and 126; the last address inside the bank and the first outside. -/
theorem witness_SlaveReadsRegisters :
    ([0#8, 0#8, 0#8] : List Byte).length ≠ 4 ∧
    ([0#8, 0#8, 0#8, 0#8] : List Byte) = two 0 ++ two 0 ∧ ([0#8, 0#8, 0#8, 0x7E#8] : List Byte) = two 0 ++ two 126 ∧
    ([0x00#8, 0x83#8, 0x00#8, 0x7D#8] : List Byte) = two 131 ++ two 125 ∧ 131 + 125 ≤ State.reset.sl.hr.length ∧
    ([0x00#8, 0x84#8, 0x00#8, 0x7D#8] : List Byte) = two 132 ++ two 125 ∧ State.reset.sl.hr.length < 132 + 125 ∧
    ([0xFF#8, 0xFF#8, 0x00#8, 0x01#8] : List Byte) = two 65535 ++ two 1 ∧ State.reset.sl.ir.length < 65535 + 1 ∧
    255 + 1 ≤ State.reset.sl.ir.length := by decide +kernel

theorem witness_SlaveWritesOneRegister :
    ([] : List Byte).length ≠ 4 ∧ ([0x00#8, 0xFF#8, 0xFF#8, 0xFF#8] : List Byte) = two 255 ++ [hi8 0xFFFF#16, lo8 0xFFFF#16] ∧
    255 < State.reset.sl.hr.length ∧ State.reset.sl.hr.length ≤ 256 := by decide +kernel

/-- Counts 0, 1, 123 and 124; a byte count and a block that fit and that do not; inside the bank and one beyond. -/
theorem witness_SlaveWritesARegisterRun :
    ([0#8, 0#8, 0#8, 0#8] : List Byte).length < 5 ∧
    ([0#8, 0#8, 0#8, 0#8, 0#8] : List Byte) = two 0 ++ two 0 ++ 0#8 :: [] ∧
    ([0#8, 0#8, 0#8, 0x7C#8, 0#8] : List Byte) = two 0 ++ two 124 ++ 0#8 :: [] ∧
    ([0#8, 1#8, 0#8, 2#8, 3#8, 0#8, 1#8, 0#8] : List Byte) = two 1 ++ two 2 ++ 3#8 :: [0#8, 1#8, 0#8] ∧ (3#8).toNat ≠ 2 * 2 ∧
    ([0#8, 0xFE#8, 0#8, 2#8, 4#8, 0#8, 1#8, 0#8, 2#8] : List Byte) = two 254 ++ two 2 ++ 4#8 :: [0#8, 1#8, 0#8, 2#8] ∧
    (4#8).toNat = 2 * 2 ∧ ([0#8, 1#8, 0#8, 2#8] : List Byte).length = (4#8).toNat ∧ 254 + 2 ≤ State.reset.sl.hr.length ∧
    State.reset.sl.hr.length < 255 + 2 ∧ 1 ≤ 123 ∧ (246#8).toNat = 2 * 123 := by
  refine ⟨?_, ?_, ?_, ?_, ?_, ?_, ?_, ?_, ?_, ?_, ?_, ?_⟩ <;> decide +kernel

theorem witness_SlaveRaisesExceptions :
    (0x07#8 ≠ 0x03#8 ∧ 0x07#8 ≠ 0x04#8 ∧ 0x07#8 ≠ 0x06#8 ∧ 0x07#8 ≠ 0x10#8) ∧
    (0x83#8 ≠ 0x03#8 ∧ 0x83#8 ≠ 0x04#8 ∧ 0x83#8 ≠ 0x06#8 ∧ 0x83#8 ≠ 0x10#8) := by decide

theorem witness_FramesForOtherUnitsVanish :
    let s := slaveWith 5#8 [] [] [0x02#8, 0x03#8, 0x00#8, 0x00#8, 0x00#8, 0x01#8, 0x84#8, 0x39#8]
    2#8 ≠ s.sl.addr ∧ 0#8 ≠ s.sl.addr ∧ s.sl.gapArmed = true ∧ s.sl.gapDeadline ≤ s.now ∧
      s.sl.asm = withCrc (2#8 :: 3#8 :: [0#8, 0#8, 0#8, 1#8]) := by decide +kernel

theorem witness_SlaveCutsFramesBySilence :
    (onChan .slave (chWith .opened [1#8] [])).sl.bs.state = .opened ∧ (onChan .slave (chWith .opened [1#8] [])).sl.bs.rb ≠ [] ∧
    State.reset.sl.bs.state ≠ .opened ∧ (onChan .slave (chWith .opened [] [])).sl.bs.rb = [] ∧
    (let s := slaveWith 1#8 [] [] [0x01#8, 0x07#8, 0x41#8, 0xE2#8];
      s.sl.gapArmed = true ∧ s.sl.gapDeadline ≤ s.now ∧ slaveDecode s.sl.asm = some (.slvUnsupportedFunction 1#8 7#8 [])) ∧
    slaveDecode (slaveWith 1#8 [] [] [1#8]).sl.asm = none ∧ State.reset.sl.gapArmed = false := by decide +kernel

theorem witness_HostReadsAndWritesTheBanks :
    255 < State.reset.sl.hr.length ∧ State.reset.sl.hr.length ≤ 256 ∧ 255 < State.reset.sl.ir.length ∧
    State.reset.sl.ir.length ≤ 256 := by decide +kernel

theorem witness_BanksAreWrittenOnlyByTheirWriters :
    (run (.slSetHoldingRegister 0 1#16) State.reset).map (fun t => decide (t.sl.hr ≠ State.reset.sl.hr)) = some true ∧
    (run (.slSetInputRegister 0 1#16) State.reset).map (fun t => decide (t.sl.ir ≠ State.reset.sl.ir)) = some true ∧
    (run .slGapFire (slaveWith 1#8 [] [] [0x01#8, 0x06#8, 0x00#8, 0x00#8, 0x04#8, 0xD2#8, 0x0B#8, 0x57#8])).map
      (fun t => decide (t.sl.hr ≠ State.reset.sl.hr)) = some true := by decide +kernel

theorem witness_SlaveAnswerDependsOnFrameAndBanks :
    let s₁ := slaveWith 1#8 [7#16] [] [0x01#8, 0x03#8, 0x00#8, 0x00#8, 0x00#8, 0x01#8, 0x84#8, 0x0A#8]
    let s₂ : State := { s₁ with now := 9, crcAcc := 0#16, sl := { s₁.sl with bs := chWith .opened [5#8] [6#8], gapMs := 1 } }
    s₁.sl.addr = s₂.sl.addr ∧ s₁.sl.hr = s₂.sl.hr ∧ s₁.sl.ir = s₂.sl.ir ∧ s₁.sl.asm = s₂.sl.asm ∧
      s₁.sl.bs.state = s₂.sl.bs.state ∧ s₁.sl.gapArmed = true ∧ s₂.sl.gapArmed = true ∧ s₁.sl.gapDeadline ≤ s₁.now ∧
      s₂.sl.gapDeadline ≤ s₂.now := by
  refine ⟨rfl, rfl, rfl, rfl, rfl, rfl, rfl, ?_, ?_⟩ <;> decide +kernel

/-- Frames of 3 and of 4 bytes, a CRC that fails, another unit, and an accepted frame. -/
theorem witness_RtuChecksInOrder :
    ([1#8, 3#8, 0#8] : List Byte).length < 4 ∧
    (let frame : List Byte := [0x01#8, 0x07#8, 0x41#8, 0xE3#8];
      4 ≤ frame.length ∧ ¬ (crc16 (frame.take (frame.length - 2))).toNat =
        (frame.getD (frame.length - 2) 0#8).toNat + 256 * (frame.getD (frame.length - 1) 0#8).toNat) ∧
    (let frame : List Byte := [0x01#8, 0x07#8, 0x41#8, 0xE2#8];
      4 ≤ frame.length ∧ (crc16 (frame.take (frame.length - 2))).toNat =
        (frame.getD (frame.length - 2) 0#8).toNat + 256 * (frame.getD (frame.length - 1) 0#8).toNat ∧
        frame[0]? = some 1#8 ∧ frame[0]? ≠ some 5#8) := by decide +kernel

theorem witness_ResponseLengthsAndClasses :
    ([1#8, 3#8] : List Byte).length < 3 ∧ (0x83#8).getLsbD 7 = true ∧ (0x2B#8).getLsbD 7 = false ∧
    0x2B#8 ∉ [0x01#8, 0x02#8, 0x03#8, 0x04#8, 0x05#8, 0x06#8, 0x0F#8, 0x10#8] ∧ 0x83#8 &&& 0x80#8 ≠ 0#8 ∧
    0x03#8 &&& 0x80#8 = 0#8 := by decide

theorem witness_MbapSplitCutsWholeFrames :
    ([] : List Byte).length + 2 < 65536 ∧ (List.replicate 65533 0#8).length + 2 < 65536 := by
  simp only [List.length_replicate, List.length_nil]
  omega

theorem witness_MismatchingTcpFramesAreSkipped :
    ∃ (bad : List (List Byte)) (good part : List Byte) (t : Word) (u fc : Byte) (data : List Byte), bad ≠ [] ∧
      (∀ f ∈ bad, (∀ more, mbapSplit (f ++ more) = some (f, more)) ∧ mbapMatch f t u = none) ∧
      (∀ more, mbapSplit (good ++ more) = some (good, more)) ∧ mbapMatch good t u = some (fc, data) ∧
      part ≠ [] ∧ mbapSplit part = none := by
  have h : ∀ (b : Byte) (more : List Byte), mbapSplit ([0#8, b, 0#8, 0#8, 0#8, 2#8, 1#8, 3#8] ++ more) =
      some ([0#8, b, 0#8, 0#8, 0#8, 2#8, 1#8, 3#8], more) := by
    intro b more
    have hl : (be16 0#8 2#8).toNat = 2 := by decide
    simp [mbapSplit, hl]
  refine ⟨[[0#8, 6#8, 0#8, 0#8, 0#8, 2#8, 1#8, 3#8]], [0#8, 5#8, 0#8, 0#8, 0#8, 2#8, 1#8, 3#8], [0#8, 5#8, 0#8, 0#8, 0#8],
    5#16, 1#8, 3#8, [], by simp, ?_, h 5#8, by decide +kernel, by decide +kernel, by decide +kernel⟩
  intro f hf
  obtain rfl := List.mem_singleton.1 hf
  exact ⟨h 6#8, by decide +kernel⟩

theorem witness_RtuMasterSendsRequests :
    rtuIdle.rm.state = .idle ∧ rtuIdle.rm.bs.state = .opened ∧ 1 ≤ rtuIdle.params.maxReadBits ∧ 65535 ≤ 65535 ∧
    1 ≤ [true].length ∧ (List.replicate 1968 true).length ≤ 1968 ∧ (List.replicate 123 0#16).length ≤ 123 := by
  exact ⟨rfl, rfl, by decide +kernel, by omega, by decide, by decide +kernel, by decide +kernel⟩

/-- Busy, not open, and each argument one beyond its range. -/
theorem witness_RefusedRequestsChangeNothing :
    ¬ rtuReady (rtuWaiting .readCoils 0#16 1#16 []) ∧ ¬ rtuReady State.reset ∧
    ¬ tcpReady (tcpWaiting .readCoils 0#16 1#16 []) ∧ ¬ tcpReady State.reset ∧ 65535 < 65536 ∧
    rtuIdle.params.maxReadBits < 2001 ∧ 125 < 126 ∧ ([] : List Bool).length < 1 ∧
    1968 < (List.replicate 1969 true).length ∧ 123 < (List.replicate 124 0#16).length := by
  exact ⟨fun h => absurd h.1 (by decide), fun h => absurd h.2 (by decide), fun h => absurd h.1 (by decide),
    fun h => absurd h.2 (by decide), by omega, by decide +kernel, by omega, by decide, by decide +kernel,
    by decide +kernel⟩

/-- A normal and an exception response accepted; nothing accepted before the deadline and at it. -/
theorem witness_MasterPollTurn :
    let s := rtuWaiting .readHoldingRegisters 0#16 1#16 [0x01#8, 0x03#8, 0x02#8, 0x04#8, 0xD2#8, 0x3A#8, 0xD9#8]
    let ctx := ctxOf .readHoldingRegisters 0#16 0#16 1#16 1000
    let e : List Byte := [0x01#8, 0x83#8, 0x02#8, 0xC0#8, 0xF1#8]
    s.rm.state = .awaitingResponse ∧ s.rm.ctx = some ctx ∧
      (∃ len, rtuComplete (ctx.resp ++ s.rm.bs.rb) = some len ∧
        rtuCheck ((ctx.resp ++ s.rm.bs.rb).take len) ctx.addr = .ok ⟨1#8, 3#8, [2#8, 4#8, 0xD2#8]⟩) ∧
      (∃ len, rtuComplete e = some len ∧ rtuCheck (e.take len) ctx.addr = .ok ⟨1#8, 0x83#8, [2#8]⟩) ∧
      (0x83#8).getLsbD 7 = true ∧ rtuComplete [] = none ∧ ctx.deadline ≤ 1000 ∧ 999 < ctx.deadline ∧
      rtuIdle.rm.state = .idle ∧ ctx.lost = false ∧
      (∃ t, exec .rmMasterPoll { s with rm := { s.rm with ctx := some { ctx with lost := true } } } = .next t) := by
  refine ⟨rfl, rfl, ⟨7, by decide +kernel, by decide +kernel⟩, ⟨5, by decide +kernel, by decide +kernel⟩, by decide, rfl,
    by decide +kernel, by decide +kernel, rfl, rfl, _, rfl⟩

/-- A read of one register at the end of the bank, and of 125. -/
theorem witness_SlaveAnswersWhatTheMasterDecodes :
    let s := slaveWith 1#8 [0x04D2#16] [] (withCrc (1#8 :: 3#8 :: (two 0 ++ two 1)))
    let m := rtuWaiting .readHoldingRegisters 0#16 1#16 [0x01#8, 0x03#8, 0x02#8, 0x04#8, 0xD2#8, 0x3A#8, 0xD9#8]
    (∃ t, exec .slGapFire s = .next t ∧ m.rm.bs.rb = t.sl.bs.wq) ∧ s.sl.addr = 1#8 ∧ s.sl.bs.state = .opened ∧
      s.sl.bs.wq = [] ∧ s.sl.gapArmed = true ∧ s.sl.gapDeadline ≤ s.now ∧ 0 + 1 ≤ s.sl.hr.length ∧
      131 + 125 ≤ s.sl.ir.length ∧
      m.rm.state = .awaitingResponse ∧
      m.rm.ctx = some (ctxOf .readHoldingRegisters 0#16 0#16 1#16 1000) ∧ m.rm.bs.state = .opened := by
  refine ⟨⟨_, rfl, by decide +kernel⟩, rfl, rfl, rfl, rfl, by decide +kernel, by decide +kernel, by decide +kernel, rfl, rfl,
    rfl⟩

theorem witness_TcpMasterSendsRequests :
    (tcpIdle 0xFFFF#16).tm.state = .idle ∧ (tcpIdle 0xFFFF#16).tm.conn = true ∧
    1 ≤ (tcpIdle 0xFFFF#16).params.maxReadBits ∧ (List.replicate 1968 true).length ≤ 1968 ∧
    (List.replicate 123 0#16).length ≤ 123 := by
  exact ⟨rfl, rfl, by decide +kernel, by decide +kernel, by decide +kernel⟩

/-- What the scan of the stream can find: a normal answer, another function code, an exception, an empty exception, nothing. -/
theorem witness_TcpPollTurn :
    let s := tcpWaiting .readHoldingRegisters 0#16 1#16 []
    s.tm.state = .awaitingResponse ∧ s.tm.ctx = some (ctxOf .readHoldingRegisters 5#16 0#16 1#16 3000) ∧
    (mbapScan [0#8, 5#8, 0#8, 0#8, 0#8, 5#8, 1#8, 3#8, 2#8, 4#8, 0xD2#8] 5#16 1#8).found = some (3#8, [2#8, 4#8, 0xD2#8]) ∧
    (mbapScan [0#8, 5#8, 0#8, 0#8, 0#8, 2#8, 1#8, 4#8] 5#16 1#8).found = some (4#8, []) ∧
    (mbapScan [0#8, 5#8, 0#8, 0#8, 0#8, 3#8, 1#8, 0x83#8, 2#8] 5#16 1#8).found = some (0x83#8, [2#8]) ∧
    (mbapScan [0#8, 5#8, 0#8, 0#8, 0#8, 2#8, 1#8, 0x83#8] 5#16 1#8).found = some (0x83#8, []) ∧
    (mbapScan [] 5#16 1#8).found = none ∧ (0x83#8).getLsbD 7 = true ∧ (tcpIdle 0#16).tm.state = .idle ∧
    (let t : State := { s with now := 2999 };
      t.now < (ctxOf .readHoldingRegisters 5#16 0#16 1#16 3000).deadline ∧
        (run .tmTcpPoll t).map (fun u => (u.tm.state, resultsOf u)) = some (.awaitingResponse, [])) ∧
    (let t : State := { s with now := 3000 };
      (ctxOf .readHoldingRegisters 5#16 0#16 1#16 3000).deadline ≤ t.now ∧
        (run .tmTcpPoll t).map (fun u => (u.tm.state, resultsOf u)) = some (.idle, [.words []])) ∧
    (let t : State := { s with tm := { s.tm with ctx := lostContext s.tm.ctx } };
      (ctxOf .readHoldingRegisters 5#16 0#16 1#16 3000).lost = false ∧ (t.tm.ctx.map fun ctx => ctx.lost) = some true ∧
        (run .tmTcpPoll t).map (fun u => (u.tm.state, resultsOf u)) = some (.awaitingResponse, []) ∧
        (run .tmTcpPoll { t with now := 3000 }).map (fun u => (u.tm.state, resultsOf u)) = some (.idle, [.words []])) := by
  decide +kernel

theorem witness_TcpConnectionOperations : (tcpIdle 0#16).tm.conn = true ∧ State.reset.tm.conn = false := by decide +kernel

theorem witness_WireRequestsAreSent :
    rtuReady rtuIdle ∧ tcpReady (tcpIdle 0#16) ∧ 1 ≤ (1#16).toNat ∧ (125#16).toNat ≤ 125 ∧
    (2000#16).toNat ≤ rtuIdle.params.maxReadBits ∧ (List.replicate 1968 true).length ≤ 1968 ∧
    (List.replicate 123 0#16).length ≤ 123 := by
  refine ⟨⟨rfl, rfl⟩, ⟨rfl, rfl⟩, by decide, by decide, by decide +kernel, by decide +kernel,
    by decide +kernel⟩

theorem witness_WireResponsesAreJudged :
    (let s := rtuWaiting .readCoils 0#16 1#16 [];
      s.rm.state = .awaitingResponse ∧ s.rm.ctx = some (ctxOf .readCoils 0#16 0#16 1#16 1000) ∧
        (ctxOf .readCoils 0#16 0#16 1#16 1000).addr = 1#8) ∧
    rtuIdle.rm.state = .idle ∧
    (let s := tcpWaiting .readCoils 0#16 1#16 [];
      s.tm.state = .awaitingResponse ∧ s.tm.ctx = some (ctxOf .readCoils 5#16 0#16 1#16 3000) ∧
        (⟨5#16, 0#16, 1#8⟩ : TcpHeader) = ⟨(ctxOf .readCoils 5#16 0#16 1#16 3000).txn, 0#16,
          (ctxOf .readCoils 5#16 0#16 1#16 3000).addr⟩) ∧
    (tcpIdle 0#16).tm.state = .idle ∧ (⟨5#16, 1#16, 1#8⟩ : TcpHeader) ≠ ⟨5#16, 0#16, 1#8⟩ ∧
    (ctxOf .readCoils 0#16 0#16 1#16 1000).lost = false ∧
    ((lostContext (some (ctxOf .readCoils 0#16 0#16 1#16 1000))).map fun ctx => ctx.lost) = some true := by decide +kernel

theorem witness_ExceptionResponsesAreSurfaced :
    (0x7F#8).getLsbD 7 = false ∧ (rtuWaiting .readCoils 0#16 1#16 []).rm.state = .awaitingResponse ∧
    (rtuWaiting .readCoils 0#16 1#16 []).rm.ctx = some (ctxOf .readCoils 0#16 0#16 1#16 1000) ∧
    (tcpWaiting .readCoils 0#16 1#16 []).tm.ctx = some (ctxOf .readCoils 5#16 0#16 1#16 3000) ∧ rtuIdle.rm.state = .idle ∧
    (ctxOf .readCoils 0#16 0#16 1#16 1000).lost = false ∧
    ((run (.bsChanError .master .timeout) (rtuWaiting .readCoils 0#16 1#16 [])).bind fun t => t.rm.ctx.map fun c => c.lost) =
      some true ∧
    ((run .tmTcpPeerClose (tcpWaiting .readCoils 0#16 1#16 [])).bind fun t => t.tm.ctx.map fun c => c.lost) = some true ∧
    (tcpIdle 0#16).tm.state = .idle := by decide +kernel

/-- A state in which every unit is at work, with an input to take. -/
def busy : State :=
  { State.reset with
    bs := chWith .opened [1#8] [2#8]
    can := (canWith .active false [fr 1] [fr 2] 1 0).can
    sl := { Slave.reset with bs := chWith .opened [3#8] [], asm := [4#8], gapArmed := true, gapDeadline := 50 }
    rm := (rtuWaiting .readCoils 0#16 1#16 []).rm
    tm := (tcpWaiting .readCoils 0#16 1#16 [7#8]).tm
    waits := [⟨.master, 100⟩]
    stops := [⟨3000, false⟩]
    inbox := [.operation [0x80#8, 0x00#8, 0x09#8]] }

theorem witness_OnlyTickMovesTheClock :
    exec (.tick 1) State.reset = .next { State.reset with now := 1 } ∧ ∃ t, step busy = .next t ∧ t.now ≠ busy.now :=
  ⟨rfl, _, rfl, by decide +kernel⟩

theorem witness_UnitsShareNoState :
    (run .crcInit { State.reset with crcAcc := 0#16 }).map (fun t => t.crcAcc) = some 0xFFFF#16 ∧
    (run .canStart State.reset).map (fun t => decide (t.can ≠ State.reset.can)) = some true ∧
    (run (.bsWrite .host [1#8]) (opened [] [])).map (fun t => t.bs.wq) = some [1#8] ∧
    (run (.bsWrite .slave [1#8]) (onChan .slave (chWith .opened [] []))).map (fun t => t.sl.bs.wq) = some [1#8] ∧
    (run (.rmReadCoils 0 1) rtuIdle).map (fun t => t.rm.state) = some .awaitingResponse ∧
    (run (.tmConnect true) State.reset).map (fun t => t.tm.conn) = some true := by decide +kernel

/-- Each bound of each legal set, met and missed; a unit inactive and active. -/
theorem witness_ConfigurationIsWrittenWhileInactive :
    ¬ settingLegal (.slAddr 0) ∧ settingLegal (.slAddr 1) ∧ settingLegal (.rmUnit 247) ∧ ¬ settingLegal (.tmUnit 248) ∧
    ¬ settingLegal (.canQcap 0) ∧ settingLegal (.canVcap 1) ∧ ¬ settingLegal (.slGapMs 0) ∧ settingLegal (.rmTimeoutMs 1) ∧
    ¬ unitInactive (canWith .active true [] [] 0 0) (.canQcap 1) ∧ unitInactive State.reset (.canVcap 1) ∧
    ¬ unitInactive (rtuWaiting .readCoils 0#16 1#16 []) (.rmUnit 1) ∧ unitInactive State.reset (.tmTimeoutMs 1) ∧
    ¬ unitInactive (onChan .slave (chWith .opened [] [])) (.slAddr 1) ∧ unitInactive State.reset (.slGapMs 1) := by
  simp only [settingLegal, unitInactive]
  decide +kernel

theorem witness_busy_steps : (stepped busy).map (fun t => t.now) = some 10 := by decide +kernel

theorem witness_OutputTracesOnlyGrow : ∃ t, step busy = .next t := ⟨_, rfl⟩

theorem witness_StepKeepsTheChannels : busy.channelsOk ∧ ∃ t, step busy = .next t := by
  refine ⟨?_, _, rfl⟩
  intro c
  cases c <;> exact ⟨by decide +kernel, by decide +kernel, by decide +kernel⟩

theorem witness_StepKeepsTheCanUnit : busy.canOk ∧ ∃ t, step busy = .next t := by
  refine ⟨?_, _, rfl⟩
  simp only [State.canOk]
  decide +kernel

theorem witness_StepKeepsTheSlave : busy.slaveOk ∧ ∃ t, step busy = .next t := by
  refine ⟨?_, _, rfl⟩
  simp only [State.slaveOk]
  decide +kernel

theorem witness_StepKeepsTheMasters : busy.mastersOk ∧ ∃ t, step busy = .next t := by
  refine ⟨⟨by decide +kernel, by decide +kernel, by decide +kernel, by decide +kernel, ?_, ?_, ?_⟩, _, rfl⟩
  · intro ctx h; obtain rfl := Option.some.inj h; decide +kernel
  · intro ctx h; obtain rfl := Option.some.inj h; decide +kernel
  · intro ctx h hc; cases hc

/-- The cases the statement is about: calls that are due and calls that are not, of each kind. -/
theorem witness_DueCallsReturnBeforeTheNextInput :
    (∃ s : State, s.inbox = [.waitReturns 1] ∧ ¬ noCallDue s) ∧
    ∃ s : State, s.inbox = [] ∧ (∃ w ∈ s.waits, waitResult s w = some true) ∧ (∃ w ∈ s.waits, waitResult s w = none) ∧
      (∃ c ∈ s.stops, c.deadline ≤ s.now ∧ c.joined = false) ∧ (∃ c ∈ s.stops, c.deadline ≤ s.now ∧ c.joined = true) ∧
      ∃ c ∈ s.stops, s.now < c.deadline := by
  simp only [noCallDue]
  exact ⟨⟨{ busy with stops := [⟨0, false⟩], inbox := [.waitReturns 1] }, by decide +kernel⟩,
    ⟨{ busy with waits := [⟨.host, 100⟩, ⟨.master, 100⟩], stops := [⟨0, true⟩, ⟨0, false⟩, ⟨1, false⟩], inbox := [] },
      by decide +kernel⟩⟩

end Sys2Proof.Tests
end

section
/-! The step that takes an input: no suspended call is due exactly when `State.mustReturn` has none, and then an inbox that
names no last step has its head run. -/
open Sys2Proof Sys2Proof.Machine Sys2Proof.Claims

namespace Sys2Proof.Machine

/-- The claims' reading of R167 is the model's. -/
theorem waitResult_eq_waitOutcome (s : State) (w : Wait) : waitResult s w = s.waitOutcome w := by
  unfold waitResult State.waitOutcome
  cases hstate : (s.chan w.chan).state
  case opened => cases hrb : (s.chan w.chan).rb <;> simp [Channel.isOpen, hstate]
  all_goals simp [Channel.isOpen, hstate]

theorem noCallDue_iff_mustReturn_eq_none (s : State) : noCallDue s ↔ s.mustReturn = none := by
  simp only [noCallDue, waitResult_eq_waitOutcome, State.mustReturn_eq_none]

/-- With no call due and an inbox that names no last step, a step takes the input. -/
theorem step_eq_takeInput (s : State) (hdue : noCallDue s) (hnames : ¬ namesLastStep s) : step s = takeInput s :=
  step_of_noReturn s
    (s.chosenReturn_eq_none (fun k rest h => hnames ⟨k, rest, .inl h⟩) (fun k rest h => hnames ⟨k, rest, .inr h⟩))
    ((noCallDue_iff_mustReturn_eq_none s).1 hdue)

theorem takeInput_operation (s : State) (bytes : List Byte) (rest : List Input) (i : Instr)
    (hinbox : s.inbox = .operation bytes :: rest) (hdecode : decode bytes = .ok i) :
    takeInput s = exec i { s with inbox := rest } := by
  simp only [takeInput, hinbox, hdecode]

theorem takeInput_configure (s : State) (w : ConfigWrite) (rest : List Input) (hinbox : s.inbox = .configure w :: rest) :
    takeInput s = .next (State.configure { s with inbox := rest } w) := by
  simp only [takeInput, hinbox]

theorem takeInput_nil (s : State) (hinbox : s.inbox = []) : takeInput s = .next s := by
  simp only [takeInput, hinbox]

end Sys2Proof.Machine

/-- Settles O4: with no call due, an inbox headed by an operation or a configuration write, or empty, names no last step, so
the step is `takeInput`, case by case. -/
theorem stepRunsTheDecodedOperation : Obligations.StepRunsTheDecodedOperation := by
  intro s hdue
  refine ⟨fun bytes rest i hinbox hdecode => ?operation, fun w rest hinbox => ?configure, fun hinbox => ?empty⟩
  case operation =>
    rw [step_eq_takeInput s hdue (by simp [namesLastStep, hinbox]), takeInput_operation s bytes rest i hinbox hdecode]
  case configure =>
    rw [step_eq_takeInput s hdue (by simp [namesLastStep, hinbox]), takeInput_configure s w rest hinbox]
  case empty =>
    rw [step_eq_takeInput s hdue (by simp [namesLastStep, hinbox]), takeInput_nil s hinbox]

end

section
/-! SUPPORT. The package "every way of a step keeps it, so every step keeps it" for a property of one state. -/
namespace Sys2Proof.Machine

@[simp] theorem setConfig_params (s : State) (w : ConfigWrite) : (s.setConfig w).params = s.params := by cases w <;> rfl
@[simp] theorem setConfig_now (s : State) (w : ConfigWrite) : (s.setConfig w).now = s.now := by cases w <;> rfl
@[simp] theorem setConfig_out (s : State) (w : ConfigWrite) : (s.setConfig w).out = s.out := by cases w <;> rfl
@[simp] theorem setConfig_returns (s : State) (w : ConfigWrite) : (s.setConfig w).returns = s.returns := by cases w <;> rfl

/-- A property that last steps, the effects of operations and configuration writes keep, and that does not speak of the
inputs to come, is kept by every step. -/
theorem step_keeps (P : State → Prop) (takes : ∀ s rest, P s → P { s with inbox := rest })
    (returns : ∀ s t, LastStep s t → P s → P t) (executes : ∀ s t, Effect s t → P s → P t)
    (configures : ∀ s w, w.legal = true → s.mayConfigure w = true → P s → P (s.setConfig w))
    (s t : State) (hs : P s) (h : step s = .next t) : P t := by
  rcases step_cases s t h with ⟨rest, hlast⟩ | ⟨rest, rfl⟩ | ⟨_, rest, i, -, -, hexec⟩ | ⟨w, rest, -, rfl⟩
  · exact returns _ _ hlast (takes s rest hs)
  · exact takes s rest hs
  · exact executes _ _ (exec_effect i _ _ hexec) (takes s rest hs)
  · rcases configure_cases { s with inbox := rest } w with ⟨notes, results, h⟩ | ⟨hlegal, hmay, h⟩
    · rw [h]
      exact executes _ _ (.quiet notes results) (takes s rest hs)
    · have hwritten := executes _ _ (.quiet [] [⟨w.source, .configure, .bool true⟩])
        (configures { s with inbox := rest } w hlegal hmay (takes s rest hs))
      rw [List.append_nil, setConfig_returns] at hwritten
      rw [h]
      exact hwritten

end Sys2Proof.Machine
end

section
/-! The channels' invariant. -/
namespace Sys2Proof.Machine

/-- An open channel is within its invariant when its ReadBuffer is within the cap and its configuration is legal. -/
theorem Channel.ok_of_open {p : Params} {ch : Channel} (hopen : ch.isOpen = true) (hcap : ch.rb.length ≤ p.readCap)
    (hlegal : legalSerialCfg ch.cfg = true) : ch.ok p :=
  ⟨hcap, fun hclosed => by simp [hopen] at hclosed, fun _ => hlegal⟩

/-- A channel that is not open is within its invariant when it holds no bytes. -/
theorem Channel.ok_of_empty {p : Params} {ch : Channel} (hclosed : ch.isOpen = false) (hrb : ch.rb = []) (hwq : ch.wq = []) :
    ch.ok p :=
  ⟨by simp [hrb], fun _ => ⟨hrb, hwq⟩, fun hopen => by simp [hclosed] at hopen⟩

theorem ChannelMove.keeps_ok {p : Params} {ch ch' : Channel} (move : ChannelMove p ch ch') (hok : ch.ok p) : ch'.ok p := by
  obtain ⟨hcap, hempty, hlegal⟩ := hok
  cases move with
  | stays => exact ⟨hcap, hempty, hlegal⟩
  | opens cfg _ legal => exact Channel.ok_of_open rfl (Nat.zero_le _) legal
  | fails hclosed => exact Channel.ok_of_empty rfl (hempty hclosed).1 (hempty hclosed).2
  | closes => exact Channel.ok_of_empty rfl rfl rfl
  | breaks _ => exact Channel.ok_of_empty rfl rfl rfl
  | queues bytes hopen => exact Channel.ok_of_open hopen hcap (hlegal hopen)
  | takes rb hopen suffix => exact Channel.ok_of_open hopen (suffix.length_le.trans hcap) (hlegal hopen)
  | receives rb hopen cap => exact Channel.ok_of_open hopen cap (hlegal hopen)
  | drains k hopen => exact Channel.ok_of_open hopen hcap (hlegal hopen)
  | sends bytes hopen => exact Channel.ok_of_open hopen (Nat.zero_le _) (hlegal hopen)

/-- A last step touches no channel and no parameter. -/
theorem LastStep.chan_eq {s t : State} (h : LastStep s t) (c : Chan) : t.chan c = s.chan c := by
  cases h <;> cases c <;> rfl

theorem LastStep.params_eq {s t : State} (h : LastStep s t) : t.params = s.params := by
  cases h <;> rfl

end Sys2Proof.Machine

open Sys2Proof.Machine in
/-- Settles O55: every effect of an operation moves each channel by `ChannelMove`, which keeps the channel's invariant;
last steps and configuration writes touch no channel. -/
theorem stepKeepsTheChannels : Obligations.StepKeepsTheChannels := by
  refine step_keeps State.channelsOk (fun s rest hs c => ?_) (fun s t hlast hs c => ?_) (fun s t heffect hs c => ?_)
    fun s w _ _ hs c => ?_
  · cases c
    exacts [hs .host, hs .slave, hs .master]
  · rw [hlast.chan_eq, hlast.params_eq]
    exact hs c
  · obtain ⟨hparams, hmove⟩ := effect_chan s t heffect
    rw [hparams]
    exact (hmove c).keeps_ok (hs c)
  · rw [setConfig_chan, setConfig_params]
    exact hs c
end

section
/-! The CAN unit's invariant: how the queue and the capacities move, and which `stop` calls wait for the thread. -/
namespace Sys2Proof.Machine

/-- The invariant speaks of the CAN unit, the suspended `stop` calls, the clock and the parameters only. -/
theorem State.canOk_congr {s t : State} (hok : s.canOk) (hcan : t.can = s.can) (hstops : t.stops = s.stops)
    (hnow : t.now = s.now) (hparams : t.params = s.params) : t.canOk := by
  unfold State.canOk at hok ⊢
  rw [hcan, hstops, hnow, hparams]
  exact hok

/-- A push keeps the queue within a capacity of at least 1. -/
theorem Can.enqueue_length_le {can : Can} (f : CanFrame) (hcap : 1 ≤ can.qcap) (hq : can.q.length ≤ can.qcap) :
    (can.enqueue f).q.length ≤ can.qcap := by
  unfold Can.enqueue
  split <;> simp <;> omega

/-- A push that drops a frame has received one too. -/
theorem Can.enqueue_dropped_le {can : Can} (f : CanFrame) (h : can.dropped ≤ can.received) :
    (can.enqueue f).dropped ≤ (can.enqueue f).received := by
  unfold Can.enqueue
  split <;> simp only <;> omega

/-- A push writes the queue and the counters. -/
theorem Can.enqueue_frame (can : Can) (f : CanFrame) :
    (can.enqueue f).qcap = can.qcap ∧ (can.enqueue f).vcap = can.vcap ∧ (can.enqueue f).vbuf = can.vbuf ∧
      (can.enqueue f).running = can.running := by
  unfold Can.enqueue
  split <;> exact ⟨rfl, rfl, rfl, rfl⟩

/-- The facts about suspended `stop` calls turn on the cases `canStarts` (all of them are joined), `canStops` (a new one waits)
and `canEnds` (one waits, since the flag is cleared); the others move a buffer within its capacity. -/
theorem effect_keeps_canOk (s t : State) (h : Effect s t) (hok : s.canOk) : t.canOk := by
  have ⟨hqcap, hvcap, hq, hvbuf, hdropped, hidle, hcleared, hset, hdeadline⟩ := hok
  cases h
  case canStarts results hstopped =>
    refine ⟨hqcap, hvcap, Nat.zero_le _, hvbuf, Nat.le_refl _, fun _ _ => rfl, fun _ hrun => (by cases hrun), ?_, ?_⟩
    · intro _ _ c hc
      obtain ⟨d, -, rfl⟩ := List.mem_map.1 hc
      rfl
    · intro c hc
      obtain ⟨d, hd, rfl⟩ := List.mem_map.1 hc
      exact hdeadline d hd
  case canStops hstarted =>
    refine ⟨hqcap, hvcap, hq, hvbuf, hdropped, fun hstopped => ?_, fun _ _ => ⟨_, List.mem_concat_self, rfl⟩,
      fun _ hrun => (by cases hrun), ?_⟩
    · exact absurd (hstarted.symm.trans hstopped) (by decide)
    · intro c hc
      rcases List.mem_append.1 hc with hold | hnew
      · exact hdeadline c hold
      · obtain rfl := List.mem_singleton.1 hnew
        exact Nat.le_refl _
  case canReads fs results suffix handed =>
    have hlen := suffix.length_le
    by_cases hs : s.can.started = true
    · simp only [Can.activeBuffer, hs, if_true] at hlen
      simp only [Can.setActiveBuffer, hs, if_true]
      refine ⟨hqcap, hvcap, hlen.trans hq, hvbuf, hdropped, fun hstopped => ?_, hcleared, hset, hdeadline⟩
      exact absurd (hs.symm.trans hstopped) (by decide)
    · simp only [Can.activeBuffer, hs] at hlen
      simp only [Can.setActiveBuffer, hs]
      exact ⟨hqcap, hvcap, hq, hlen.trans hvbuf, hdropped, hidle, hcleared, hset, hdeadline⟩
  case canArrives f => exact hok
  case canDrains notes hstopped =>
    exact ⟨hqcap, hvcap, hq, by simp, hdropped, hidle, hcleared, hset, hdeadline⟩
  case canPushes f rest notes hstarted hrun hdevq =>
    obtain ⟨hframe, hframe', hframe'', hframe'''⟩ := s.can.enqueue_frame f
    refine ⟨hframe ▸ hqcap, hframe' ▸ hvcap, ?_, ?_, s.can.enqueue_dropped_le f hdropped,
      fun hstopped => (by cases hstopped), ?_, ?_, hdeadline⟩
    · exact hframe ▸ s.can.enqueue_length_le f hqcap hq
    · simpa only [hframe', hframe''] using hvbuf
    · intro _ hcl
      rw [hframe''', hrun] at hcl
      cases hcl
    · exact fun _ _ => hset hstarted hrun
  case canSleeps hstarted hrun =>
    exact ⟨hqcap, hvcap, hq, hvbuf, hdropped, fun hstopped => (by cases hstopped), fun _ => hcleared hstarted,
      fun _ => hset hstarted, hdeadline⟩
  case canEnds hstarted hrun =>
    refine ⟨hqcap, hvcap, hq, hvbuf, hdropped, fun _ hjoined => ?_, fun hst => (by cases hst), fun hst => (by cases hst),
      hdeadline⟩
    obtain ⟨c, hc, hwaits⟩ := hcleared hstarted hrun
    exact absurd (hwaits.symm.trans (hjoined c hc)) (by decide)
  case ticks dt =>
    exact ⟨hqcap, hvcap, hq, hvbuf, hdropped, hidle, hcleared, hset, fun c hc => (hdeadline c hc).trans (by simp)⟩
  case chan c ch notes results move => exact State.canOk_congr hok (by simp) (by simp) (by simp) (by simp)
  case chanBreaks c notes hopen => exact State.canOk_congr hok (by simp) (by simp) (by simp) (by simp)
  case slaveRuns hrun =>
    obtain ⟨bank, body, notes, -, rfl⟩ := hrun
    exact hok
  case slaveFires hexpired hrun =>
    obtain ⟨bank, body, notes, -, rfl⟩ := hrun
    exact hok
  all_goals exact hok

/-- A `stop` call that has seen its thread end (`joined`) leaves without touching the unit, and no fact about the thread rested on
it; any other ends the thread and empties the queue. -/
theorem LastStep.keeps_canOk {s t : State} (h : LastStep s t) (hok : s.canOk) : t.canOk := by
  have ⟨hqcap, hvcap, hq, hvbuf, hdropped, hidle, hcleared, hset, hdeadline⟩ := hok
  cases h with
  | wait w b before after split due => exact hok
  | stop c before after split ended =>
    have hmem : ∀ d, d ∈ s.stops ↔ d = c ∨ d ∈ before ++ after := fun d => by
      rw [split, List.perm_middle.mem_iff, List.mem_cons]
    have hkept : ∀ d ∈ before ++ after, d.deadline ≤ s.now + s.params.joinTimeoutMs :=
      fun d hd => hdeadline d ((hmem d).2 (.inr hd))
    by_cases hjoined : c.joined = true
    · have hcan : s.can.halted c = s.can := by simp [Can.halted, hjoined]
      unfold State.canOk
      simp only [State.endStop_can, State.endStop_stops, State.endStop_now, State.endStop_params, hcan]
      refine ⟨hqcap, hvcap, hq, hvbuf, hdropped, fun hstopped hall => hidle hstopped fun d hd => ?_, fun hstarted hrun => ?_,
        fun hstarted hrun d hd => hset hstarted hrun d ((hmem d).2 (.inr hd)), hkept⟩
      · rcases (hmem d).1 hd with rfl | hd
        · exact hjoined
        · exact hall d hd
      · obtain ⟨d, hd, hwaits⟩ := hcleared hstarted hrun
        rcases (hmem d).1 hd with rfl | hd
        · exact absurd (hwaits.symm.trans hjoined) (by decide)
        · exact ⟨d, hd, hwaits⟩
    · have hcan : s.can.halted c = { s.can with thread := .stopped, q := [] } := by simp [Can.halted, hjoined]
      unfold State.canOk
      simp only [State.endStop_can, State.endStop_stops, State.endStop_now, State.endStop_params, hcan]
      exact ⟨hqcap, hvcap, Nat.zero_le _, hvbuf, hdropped, fun _ _ => trivial, fun hst => (by cases hst),
        fun hst => (by cases hst), hkept⟩

/-- A capacity is written only where it is at least 1 and not below the frames its buffer holds. -/
theorem setConfig_keeps_canOk (s : State) (w : ConfigWrite) (hlegal : w.legal = true) (hmay : s.mayConfigure w = true)
    (hok : s.canOk) : (s.setConfig w).canOk := by
  have ⟨hqcap, hvcap, hq, hvbuf, hrest⟩ := hok
  cases w
  case canQcap v =>
    simp only [State.mayConfigure, Bool.and_eq_true, decide_eq_true_eq] at hmay
    exact ⟨of_decide_eq_true hlegal, hvcap, hmay.2, hvbuf, hrest⟩
  case canVcap v =>
    simp only [State.mayConfigure, Bool.and_eq_true, decide_eq_true_eq] at hmay
    exact ⟨hqcap, of_decide_eq_true hlegal, hq, hmay.2, hrest⟩
  all_goals exact hok

end Sys2Proof.Machine

open Sys2Proof.Machine in
/-- Settles O56: by cases on what a step can do. The facts about `stop` calls turn on `start` and `stop` (which begin and clear
a thread) and on the last step of a `stop` that still waits for the thread, which ends it. -/
theorem stepKeepsTheCanUnit : Obligations.StepKeepsTheCanUnit :=
  step_keeps State.canOk (fun _ _ hs => hs) (fun _ _ hlast hs => hlast.keeps_canOk hs)
    (fun _ _ heffect hs => effect_keeps_canOk _ _ heffect hs) setConfig_keeps_canOk
end

section
/-! The slave's invariant. -/
namespace Sys2Proof.Machine

/-- Executing a frame writes the holding bank and queues bytes; the invariant speaks of the bank's length only. -/
theorem SlaveEffect.keeps_slaveOk {s t : State} (h : SlaveEffect s t) (hok : s.slaveOk) : t.slaveOk := by
  obtain ⟨bank, body, notes, hbank, rfl⟩ := h
  obtain ⟨haddr, harmed, hdeadline, hbanks⟩ := hok
  exact ⟨haddr, harmed, hdeadline, hbank.trans hbanks⟩

/-- A frame that is complete is taken out of the assembly buffer, and the timer stops. -/
theorem slaveOk_cleared {s : State} (hok : s.slaveOk) :
    State.slaveOk { s with sl := { s.sl with asm := [], gapArmed := false } } := by
  obtain ⟨haddr, -, -, hbanks⟩ := hok
  exact ⟨haddr, by simp, fun harmed => (by cases harmed), hbanks⟩

theorem effect_keeps_slaveOk (s t : State) (h : Effect s t) (hok : s.slaveOk) : t.slaveOk := by
  have ⟨haddr, harmed, hdeadline, hbanks⟩ := hok
  cases h
  case chan c ch notes results move => cases c <;> exact hok
  case chanBreaks c notes hopen => cases c <;> exact hok
  case slaveTakes henabled =>
    have harrived : s.sl.bs.rb ≠ [] := by
      simp only [Slave.rxEnabled, Bool.and_eq_true] at henabled
      simpa using henabled.2
    exact ⟨haddr, by simp [harrived], fun _ => Nat.le_refl _, hbanks⟩
  case slaveRuns hrun => exact hrun.keeps_slaveOk hok
  case slaveDiscards hexpired => exact slaveOk_cleared hok
  case slaveFires hexpired hrun => exact hrun.keeps_slaveOk (slaveOk_cleared hok)
  case holding bank results hbank => exact ⟨haddr, harmed, hdeadline, hbank.trans hbanks⟩
  case input bank results hbank => exact ⟨haddr, harmed, hdeadline, hbanks.trans hbank.symm⟩
  case ticks dt => exact ⟨haddr, harmed, fun h => (hdeadline h).trans (by simp), hbanks⟩
  all_goals exact hok

/-- A legal unit address fits a byte. -/
theorem legalUnit_ofNat (v : Nat) (h : legalUnit v = true) : legalUnit (BitVec.ofNat 8 v).toNat = true := by
  obtain ⟨-, hle⟩ := (legalUnit_iff v).1 h
  rwa [BitVec.toNat_ofNat, Nat.mod_eq_of_lt (by omega)]

/-- The address written is legal; the gap is written only while no byte is assembled, so no deadline rests on the old one. -/
theorem setConfig_keeps_slaveOk (s : State) (w : ConfigWrite) (hlegal : w.legal = true) (hmay : s.mayConfigure w = true)
    (hok : s.slaveOk) : (s.setConfig w).slaveOk := by
  have ⟨haddr, harmed, hdeadline, hbanks⟩ := hok
  cases w
  case slAddr v => exact ⟨legalUnit_ofNat v hlegal, harmed, hdeadline, hbanks⟩
  case slGapMs v =>
    have hasm : s.sl.asm = [] := by
      simp only [State.mayConfigure, Slave.inactive, Bool.and_eq_true] at hmay
      simpa using hmay.2
    exact ⟨haddr, harmed, fun h => absurd hasm (harmed.1 h), hbanks⟩
  all_goals exact hok

end Sys2Proof.Machine

open Sys2Proof.Machine in
/-- Settles O57: bytes are assembled exactly by `SlaveRx`, which arms the timer one gap ahead, and taken out by `GapFire`, which
stops it; executing a frame keeps the length of the bank. -/
theorem stepKeepsTheSlave : Obligations.StepKeepsTheSlave :=
  step_keeps State.slaveOk (fun _ _ hs => hs) (fun _ _ hlast hs => by cases hlast <;> exact hs)
    (fun _ _ heffect hs => effect_keeps_slaveOk _ _ heffect hs) setConfig_keeps_slaveOk
end

section
/-! The masters' invariant: what it asks of the one request of either master, and what the TCP master's connection adds. -/
namespace Sys2Proof.Machine

/-- What `State.mastersOk` asks of a master with these fields, whichever it is: a legal unit, a context exactly while it waits,
and the context's fields as they were set when it was created. -/
def RequestOk (unit : Byte) (txn : Word) (timeoutMs now : Nat) (state : MasterState) (ctx : Option TransactionContext) :
    Prop :=
  legalUnit unit.toNat = true ∧ (ctx = none ↔ (state == .idle) = true) ∧
  ∀ c, ctx = some c → c.addr = unit ∧ c.txn = txn ∧ c.issued ≤ now ∧ c.deadline = c.issued + timeoutMs

section
variable {unit : Byte} {txn : Word} {timeoutMs now : Nat} {state : MasterState}

theorem requestOk_idle (hunit : legalUnit unit.toNat = true) : RequestOk unit txn timeoutMs now .idle none :=
  ⟨hunit, by decide, fun c hc => by cases hc⟩

theorem requestOk_sent (fc : FunctionCode) (req : ReqParams) (hunit : legalUnit unit.toNat = true) :
    RequestOk unit txn timeoutMs now .awaitingResponse
      (some ⟨unit, txn, fc, req, now, now + timeoutMs, [], false⟩) := by
  refine ⟨hunit, by simp, fun c hc => ?_⟩
  obtain rfl := Option.some.inj hc
  exact ⟨rfl, rfl, Nat.le_refl _, rfl⟩

/-- The accumulating buffer is none of the fields fixed at creation. -/
theorem requestOk_gathered {ctx : TransactionContext} (resp : List Byte)
    (h : RequestOk unit txn timeoutMs now state (some ctx)) :
    RequestOk unit txn timeoutMs now state (some { ctx with resp := resp }) := by
  obtain ⟨hunit, hlive, hfields⟩ := h
  refine ⟨hunit, by simpa using hlive, fun c hc => ?_⟩
  obtain rfl := Option.some.inj hc
  exact hfields ctx rfl

/-- Nor is the mark of a lost request. -/
theorem requestOk_lost {ctx : Option TransactionContext} (h : RequestOk unit txn timeoutMs now state ctx) :
    RequestOk unit txn timeoutMs now state (ctx.map TransactionContext.lose) := by
  obtain ⟨hunit, hlive, hfields⟩ := h
  refine ⟨hunit, Option.map_eq_none_iff.trans hlive, fun c hc => ?_⟩
  obtain ⟨old, hold, rfl⟩ := Option.map_eq_some_iff.1 hc
  exact hfields old hold

theorem requestOk_later {ctx : Option TransactionContext} (dt : Nat) (h : RequestOk unit txn timeoutMs now state ctx) :
    RequestOk unit txn timeoutMs (now + dt) state ctx := by
  obtain ⟨hunit, hlive, hfields⟩ := h
  refine ⟨hunit, hlive, fun c hc => ?_⟩
  obtain ⟨haddr, htxn, hissued, hdeadline⟩ := hfields c hc
  exact ⟨haddr, htxn, Nat.le_add_right_of_le hissued, hdeadline⟩

/-- An idle master's unit and timeout may be replaced: there is no context that rests on them. -/
theorem requestOk_configured {ctx : Option TransactionContext} (unit' : Byte) (timeoutMs' : Nat)
    (hunit : legalUnit unit'.toNat = true) (hidle : (state == .idle) = true)
    (h : RequestOk unit txn timeoutMs now state ctx) : RequestOk unit' txn timeoutMs' now state ctx := by
  obtain ⟨-, hlive, -⟩ := h
  obtain rfl := hlive.2 hidle
  exact ⟨hunit, hlive, fun c hc => by cases hc⟩

end

/-- The RTU master's half of `State.mastersOk`. -/
def State.rtuOk (s : State) : Prop := RequestOk s.rm.unit 0#16 s.rm.timeoutMs s.now s.rm.state s.rm.ctx

/-- The TCP master's half: the request, and that it is lost when there is no connection. -/
def State.tcpOk (s : State) : Prop :=
  RequestOk s.tm.unit s.tm.txn s.tm.timeoutMs s.now s.tm.state s.tm.ctx ∧
  ∀ ctx, s.tm.ctx = some ctx → s.tm.conn = false → ctx.lost = true

theorem mastersOk_iff (s : State) : s.mastersOk ↔ s.rtuOk ∧ s.tcpOk := by
  constructor
  · rintro ⟨hrunit, htunit, hrlive, htlive, hrfields, htfields, hlost⟩
    exact ⟨⟨hrunit, hrlive, hrfields⟩, ⟨htunit, htlive, htfields⟩, hlost⟩
  · rintro ⟨⟨hrunit, hrlive, hrfields⟩, ⟨htunit, htlive, htfields⟩, hlost⟩
    exact ⟨hrunit, htunit, hrlive, htlive, hrfields, htfields, hlost⟩

/-- The request a poll serves is the master's one context. -/
theorem RtuMaster.ctx_of_pending {m : RtuMaster} {ctx : TransactionContext} (h : m.pending = some ctx) :
    m.ctx = some ctx := by
  simp only [RtuMaster.pending, Option.ite_none_left_eq_some] at h
  exact h.2

theorem TcpMaster.ctx_of_pending {m : TcpMaster} {ctx : TransactionContext} (h : m.pending = some ctx) :
    m.ctx = some ctx := by
  simp only [TcpMaster.pending, Option.ite_none_left_eq_some] at h
  exact h.2

theorem rtuGather_ok {s : State} {ctx : TransactionContext} (hpending : s.rm.pending = some ctx) (h : s.rtuOk) :
    (s.rtuGather ctx).rtuOk := by
  unfold State.rtuOk at h
  rw [RtuMaster.ctx_of_pending hpending] at h
  exact requestOk_gathered _ h

theorem tcpGather_ok {s : State} {ctx : TransactionContext} (rest : List Byte) (hpending : s.tm.pending = some ctx)
    (h : s.tcpOk) : (s.tcpGather ctx rest).tcpOk := by
  unfold State.tcpOk at h
  rw [TcpMaster.ctx_of_pending hpending] at h
  obtain ⟨hrequest, hlost⟩ := h
  refine ⟨requestOk_gathered rest hrequest, fun c hc hclosed => ?_⟩
  obtain rfl := Option.some.inj hc
  exact hlost ctx rfl hclosed

theorem tcpSend_ok {s : State} (q : Request) (hconn : s.tm.conn = true) (h : s.tcpOk) : (s.tcpSend q).tcpOk :=
  ⟨requestOk_sent q.fc q.params h.1.1, fun _ _ hclosed => absurd (hconn.symm.trans hclosed) (by decide)⟩

theorem tcpDrop_ok {s : State} (h : s.tcpOk) : s.tcpDrop.tcpOk := by
  refine ⟨requestOk_lost h.1, fun ctx hctx _ => ?_⟩
  obtain ⟨old, -, rfl⟩ := Option.map_eq_some_iff.1 hctx
  rfl

theorem effect_keeps_mastersOk (s t : State) (h : Effect s t) (hok : s.mastersOk) : t.mastersOk := by
  rw [mastersOk_iff] at hok ⊢
  have ⟨hrtu, htcp⟩ := hok
  cases h
  case chan c ch notes results move => cases c <;> exact hok
  case chanBreaks c notes hopen =>
    cases c
    · exact hok
    · exact hok
    · exact ⟨requestOk_lost hrtu, htcp⟩
  case slaveRuns hrun =>
    obtain ⟨bank, body, notes, -, rfl⟩ := hrun
    exact hok
  case slaveFires hexpired hrun =>
    obtain ⟨bank, body, notes, -, rfl⟩ := hrun
    exact hok
  case rtuSends q hidle hopen => exact ⟨requestOk_sent q.fc q.params hrtu.1, htcp⟩
  case rtuGathers ctx hpending => exact ⟨rtuGather_ok hpending hrtu, htcp⟩
  case rtuEnds bs notes results move => exact ⟨requestOk_idle hrtu.1, htcp⟩
  case tcpSends q hidle hconn => exact ⟨hrtu, tcpSend_ok q hconn htcp⟩
  case tcpGathers ctx rest hpending => exact ⟨hrtu, tcpGather_ok rest hpending htcp⟩
  case tcpEnds rxs notes results => exact ⟨hrtu, requestOk_idle htcp.1.1, fun ctx hctx => by cases hctx⟩
  case tcpLinks conn rxs notes results hconn =>
    obtain ⟨hrequest, hlost⟩ := htcp
    refine ⟨hrtu, hrequest, fun ctx hctx hclosed => ?_⟩
    rcases hconn with rfl | rfl
    · cases hclosed
    · exact hlost ctx hctx hclosed
  case tcpDrops notes results => exact ⟨hrtu, tcpDrop_ok htcp⟩
  case ticks dt => exact ⟨requestOk_later dt hrtu, requestOk_later dt htcp.1, htcp.2⟩
  all_goals exact hok

/-- A master's fields are written only while it is idle. -/
theorem setConfig_keeps_mastersOk (s : State) (w : ConfigWrite) (hlegal : w.legal = true) (hmay : s.mayConfigure w = true)
    (hok : s.mastersOk) : (s.setConfig w).mastersOk := by
  rw [mastersOk_iff] at hok ⊢
  have ⟨hrtu, hrequest, hlost⟩ := hok
  cases w
  case rmUnit v => exact ⟨requestOk_configured _ _ (legalUnit_ofNat v hlegal) hmay hrtu, hrequest, hlost⟩
  case rmTimeoutMs v => exact ⟨requestOk_configured _ v hrtu.1 hmay hrtu, hrequest, hlost⟩
  case tmUnit v => exact ⟨hrtu, requestOk_configured _ _ (legalUnit_ofNat v hlegal) hmay hrequest, hlost⟩
  case tmTimeoutMs v => exact ⟨hrtu, requestOk_configured _ v hrequest.1 hmay hrequest, hlost⟩
  all_goals exact hok

end Sys2Proof.Machine

open Sys2Proof.Machine in
/-- Settles O58: a context is created by a send, whose fields it takes, and destroyed by the end of the request; in between only
its buffer and its mark of loss change, and no configuration write meets a busy master. -/
theorem stepKeepsTheMasters : Obligations.StepKeepsTheMasters :=
  step_keeps State.mastersOk (fun _ _ hs => hs) (fun _ _ hlast hs => by cases hlast <;> exact hs)
    (fun _ _ heffect hs => effect_keeps_mastersOk _ _ heffect hs) setConfig_keeps_mastersOk
end

section
/-! The output traces. -/
namespace Sys2Proof.Machine

/-- Nothing shown in `s` is taken back in `t`. -/
def TracesGrow (s t : State) : Prop :=
  s.out <+: t.out ∧ s.returns <+: t.returns ∧ s.tm.txs <+: t.tm.txs ∧ ∀ c, (s.chan c).tx <+: (t.chan c).tx

theorem TracesGrow.trans {s t u : State} (hst : TracesGrow s t) (htu : TracesGrow t u) : TracesGrow s u := by
  obtain ⟨hout, hreturns, htxs, htx⟩ := hst
  obtain ⟨hout', hreturns', htxs', htx'⟩ := htu
  exact ⟨hout.trans hout', hreturns.trans hreturns', htxs.trans htxs', fun c => (htx c).trans (htx' c)⟩

/-- Only the line taking bytes writes a channel's transmitted bytes, at their end. -/
theorem ChannelMove.tx_prefix {p : Params} {ch ch' : Channel} (move : ChannelMove p ch ch') : ch.tx <+: ch'.tx := by
  cases move
  case drains k hopen => exact List.prefix_append _ _
  all_goals exact List.prefix_refl _

theorem SlaveEffect.traces {s t : State} (h : SlaveEffect s t) :
    s.out <+: t.out ∧ s.returns <+: t.returns ∧ s.tm.txs <+: t.tm.txs := by
  obtain ⟨bank, body, notes, -, rfl⟩ := h
  exact ⟨List.prefix_append _ _, List.prefix_refl _, List.prefix_refl _⟩

theorem effect_traces (s t : State) (h : Effect s t) : s.out <+: t.out ∧ s.returns <+: t.returns ∧ s.tm.txs <+: t.tm.txs := by
  cases h
  case chan c ch notes results move => simp
  case chanBreaks c notes hopen => simp
  case slaveRuns hrun => exact hrun.traces
  case slaveFires hexpired hrun => exact hrun.traces
  case tcpSends q hidle hconn => exact ⟨List.prefix_refl _, List.prefix_refl _, List.prefix_append _ _⟩
  all_goals simp [State.rtuSend, State.rtuGather, State.tcpGather, State.tcpDrop]

theorem effect_tracesGrow (s t : State) (h : Effect s t) : TracesGrow s t := by
  obtain ⟨hout, hreturns, htxs⟩ := effect_traces s t h
  exact ⟨hout, hreturns, htxs, fun c => ((effect_chan s t h).2 c).tx_prefix⟩

theorem LastStep.tracesGrow {s t : State} (h : LastStep s t) : TracesGrow s t := by
  refine ⟨?_, ?_, ?_, fun c => h.chan_eq c ▸ List.prefix_refl _⟩ <;> cases h <;> simp

theorem setConfig_tracesGrow (s : State) (w : ConfigWrite) : TracesGrow s (s.setConfig w) := by
  have htm : (s.setConfig w).tm.txs = s.tm.txs := by cases w <;> rfl
  refine ⟨?_, ?_, ?_, fun c => ?_⟩
  · rw [setConfig_out]
  · rw [setConfig_returns]
  · rw [htm]
  · rw [setConfig_chan]

end Sys2Proof.Machine

open Sys2Proof.Machine in
/-- Settles O51: "the traces of `s` begin those of the state" holds of `s`, and every way of a step keeps it. -/
theorem outputTracesOnlyGrow : Obligations.OutputTracesOnlyGrow := by
  intro s t h
  refine step_keeps (TracesGrow s) (fun u rest hu => ?_) (fun u v hlast hu => hu.trans hlast.tracesGrow)
    (fun u v heffect hu => hu.trans (effect_tracesGrow u v heffect))
    (fun u w _ _ hu => hu.trans (setConfig_tracesGrow u w)) s t ?_ h
  · obtain ⟨hout, hreturns, htxs, htx⟩ := hu
    exact ⟨hout, hreturns, htxs, fun c => by cases c <;> exact htx _⟩
  · exact ⟨List.prefix_refl _, List.prefix_refl _, List.prefix_refl _, fun _ => List.prefix_refl _⟩
end

section
/-! Which part of the state an operation may change: one unit, one channel, the clock, or nothing but the traces and the list of
waiting calls. Said once, per operation (`exec_onlyChanges`). -/
namespace Sys2Proof.Machine

/-- The parts of the state that operations change. The slave's and the RTU master's channels are parts of their own, since the
operations of a Byte-Stream Channel reach them without the unit that owns them (R37, R43). -/
inductive Part
  | crc | can | chan (c : Chan) | slave | rtuMaster | tcpMaster | clock

/-- The part an operation may change, if there is one. -/
def changedPart : Instr → Option Part
  | .crcInit | .crcByte _ => some .crc
  | .canStart | .canStop | .canReadFrame | .canReadAllFrames | .canArrive _ | .canThreadStep | .canNormalDrain => some .can
  | .bsOpen c _ _ | .bsClose c | .bsWrite c _ | .bsReadAvailable c | .bsReadLine c | .bsRxBytes c _ | .bsTxDrain c _
  | .bsChanError c _ => some (.chan c)
  | .slvReadHoldingRegisters _ _ | .slvReadInputRegisters _ _ | .slvWriteSingleRegister _ _
  | .slvWriteMultipleRegisters _ _ | .slvUnsupportedFunction _ _ _ | .exceptionResponseBuild _ _
  | .slSetHoldingRegister _ _ | .slSetInputRegister _ _ | .slSlaveRx | .slGapFire => some .slave
  | .rtuReadCoils _ | .rtuReadDiscreteInputs _ | .rtuReadHoldingRegisters _ | .rtuReadInputRegisters _
  | .rtuWriteSingleCoil _ | .rtuWriteSingleRegister _ | .rtuWriteMultipleCoils _ | .rtuWriteMultipleRegisters _
  | .exceptionResponseDecode .rtu _ _ | .rmReadCoils _ _ | .rmReadDiscreteInputs _ _ | .rmReadHoldingRegisters _ _
  | .rmReadInputRegisters _ _ | .rmWriteSingleCoil _ _ | .rmWriteSingleRegister _ _ | .rmWriteMultipleCoils _ _
  | .rmWriteMultipleRegisters _ _ | .rmMasterPoll => some .rtuMaster
  | .tcpReadCoils _ | .tcpReadDiscreteInputs _ | .tcpReadHoldingRegisters _ | .tcpReadInputRegisters _
  | .tcpWriteSingleCoil _ | .tcpWriteSingleRegister _ | .tcpWriteMultipleCoils _ | .tcpWriteMultipleRegisters _
  | .exceptionResponseDecode .tcp _ _ | .tmReadCoils _ _ | .tmReadDiscreteInputs _ _ | .tmReadHoldingRegisters _ _
  | .tmReadInputRegisters _ _ | .tmWriteSingleCoil _ _ | .tmWriteSingleRegister _ _ | .tmWriteMultipleCoils _ _
  | .tmWriteMultipleRegisters _ _ | .tmConnect _ | .tmDisconnect | .tmTcpRx _ | .tmTcpPoll
  | .tmTcpPeerClose => some .tcpMaster
  | .tick _ => some .clock
  | .crcRead | .crc16 _ | .bsBytesAvailable _ | .bsWaitReady _ _ | .canBufferedCount | .canReceivedCount
  | .canDroppedCount | .slGetHoldingRegister _ | .slGetInputRegister _ => none

/-- `s` with one part as it is in `t`. The CAN unit's part holds the suspended `stop` calls, and the RTU master's channel the
mark of a lost request (41_bytestream.md R169). -/
def State.withPart (s t : State) : Option Part → State
  | none => s
  | some .crc => { s with crcAcc := t.crcAcc }
  | some .can => { s with can := t.can, stops := t.stops }
  | some (.chan .host) => { s with bs := t.bs }
  | some (.chan .slave) => { s with sl := { s.sl with bs := t.sl.bs } }
  | some (.chan .master) => { s with rm := { s.rm with bs := t.rm.bs, ctx := t.rm.ctx } }
  | some .slave => { s with sl := t.sl }
  | some .rtuMaster => { s with rm := t.rm }
  | some .tcpMaster => { s with tm := t.tm }
  | some .clock => { s with now := t.now }

/-- `t` is `s` but for that part, the two traces and the suspended `waitReady` calls. -/
def OnlyChanges (part : Option Part) (s t : State) : Prop :=
  t = { s.withPart t part with out := t.out, returns := t.returns, waits := t.waits }

section
variable {part : Option Part} {s t : State}

theorem OnlyChanges.same (part : Option Part) (s : State) : OnlyChanges part s s := by
  rcases part with - | (- | - | ⟨- | - | -⟩ | - | - | - | -) <;> rfl

theorem OnlyChanges.notify (h : OnlyChanges part s t) (src : Source) (n : Notice) : OnlyChanges part s (t.notify src n) := by
  unfold OnlyChanges at h ⊢
  rcases part with - | (- | - | ⟨- | - | -⟩ | - | - | - | -) <;> rw [h] <;> rfl

theorem OnlyChanges.ret (h : OnlyChanges part s t) (src : Source) (i : Byte) (r : Result) :
    OnlyChanges part s (t.ret src i r) := by
  unfold OnlyChanges at h ⊢
  rcases part with - | (- | - | ⟨- | - | -⟩ | - | - | - | -) <;> rw [h] <;> rfl

/-- An answer alone changes no part. -/
theorem OnlyChanges.answers (part : Option Part) (s : State) (src : Source) (i : Byte) (r : Result) :
    OnlyChanges part s (s.ret src i r) :=
  (OnlyChanges.same part s).ret src i r

theorem OnlyChanges.setChan (s : State) (c : Chan) (ch : Channel) : OnlyChanges (some (.chan c)) s (s.setChan c ch) := by
  cases c <;> rfl

theorem OnlyChanges.breaks (s : State) (c : Chan) (ch : Channel) :
    OnlyChanges (some (.chan c)) s ((s.setChan c ch).loseRequest c) := by
  cases c <;> rfl

theorem OnlyChanges.ofSlaveEffect (h : SlaveEffect s t) : OnlyChanges (some .slave) s t := by
  obtain ⟨bank, body, notes, -, rfl⟩ := h
  rfl

end

theorem onlyChanges_slaveInstr (p : RtuPdu) (s t : State) (h : exec (slaveInstr p) s = .next t) :
    OnlyChanges (some .slave) s t := by
  rw [exec_slaveInstr, Host.Outcome.next.injEq] at h
  subst h
  split
  · exact .ofSlaveEffect (slaveRun_effect s p)
  · exact .same _ s

theorem onlyChanges_rtuConclude (s : State) (ctx : TransactionContext) (fc : Byte) (data : List Byte) :
    OnlyChanges (some .rtuMaster) s (s.rtuConclude ctx fc data) := by
  obtain ⟨notes, results, h⟩ := rtuConclude_form s ctx fc data
  rw [h]
  rfl

theorem onlyChanges_tcpConclude (s : State) (ctx : TransactionContext) (rest : List Byte) (fc : Byte) (data : List Byte) :
    OnlyChanges (some .tcpMaster) s (s.tcpConclude ctx rest fc data) := by
  obtain ⟨notes, results, h⟩ := tcpConclude_form s ctx rest fc data
  rw [h]
  rfl

theorem onlyChanges_rtuCall (s : State) (q : Request) : OnlyChanges (some .rtuMaster) s (s.rtuCall q) := by
  rcases rtuCall_cases s q with ⟨-, -, -, h⟩ | ⟨-, h⟩ <;> rw [h] <;> rfl

theorem onlyChanges_tcpCall (s : State) (q : Request) : OnlyChanges (some .tcpMaster) s (s.tcpCall q) := by
  rcases tcpCall_cases s q with ⟨-, -, -, h⟩ | ⟨-, h⟩ <;> rw [h] <;> rfl

theorem onlyChanges_rtuWire {Req : Type} (s : State) (fc : FunctionCode) (request : Req → Request) (m : RtuMsg Req) :
    OnlyChanges (some .rtuMaster) s (s.rtuWire fc request m) := by
  unfold State.rtuWire
  split
  · split <;> rfl
  · split
    · split
      · exact onlyChanges_rtuConclude ..
      · rfl
    · rfl

theorem onlyChanges_tcpWire {Req : Type} (s : State) (fc : FunctionCode) (request : Req → Request) (m : TcpMsg Req) :
    OnlyChanges (some .tcpMaster) s (s.tcpWire fc request m) := by
  unfold State.tcpWire
  split
  · split <;> rfl
  · split
    · split
      · exact onlyChanges_tcpConclude ..
      · rfl
    · rfl

theorem onlyChanges_rtuException (s : State) (fc code : Byte) :
    OnlyChanges (some .rtuMaster) s (s.rtuException fc code) := by
  unfold State.rtuException
  split
  · split
    · rfl
    · exact onlyChanges_rtuConclude ..
  · rfl

theorem onlyChanges_tcpException (s : State) (fc code : Byte) :
    OnlyChanges (some .tcpMaster) s (s.tcpException fc code) := by
  unfold State.tcpException
  split
  · split
    · rfl
    · exact onlyChanges_tcpConclude ..
  · rfl

theorem onlyChanges_rmMasterPoll (s t : State) (h : exec .rmMasterPoll s = .next t) :
    OnlyChanges (some .rtuMaster) s t := by
  obtain rfl := Host.Outcome.next.inj h
  split
  · rfl
  · split
    · obtain ⟨notes, results, hform⟩ := rtuConclude_form (s.rtuGather _) _ _ _
      rw [hform]
      rfl
    · unfold State.rtuDeadline
      dsimp only
      split <;> rfl

theorem onlyChanges_tmTcpPoll (s t : State) (h : exec .tmTcpPoll s = .next t) : OnlyChanges (some .tcpMaster) s t := by
  obtain rfl := Host.Outcome.next.inj h
  split
  · rfl
  · dsimp only
    split
    · obtain ⟨notes, results, hform⟩ := tcpConclude_form (s.tcpGather _ _) _ _ _ _
      rw [hform]
      rfl
    · unfold State.tcpDeadline
      split <;> rfl

theorem onlyChanges_canThreadStep (s t : State) (h : exec .canThreadStep s = .next t) : OnlyChanges (some .can) s t := by
  obtain rfl := Host.Outcome.next.inj h
  split
  · split
    · unfold State.threadTurn
      split
      · dsimp only
        split <;> rfl
      · rfl
    · rfl
  · rfl

theorem onlyChanges_bsOpen (c : Chan) (config : SerialCfg) (draw : OpenDraw) (s t : State)
    (h : exec (.bsOpen c config draw) s = .next t) : OnlyChanges (some (.chan c)) s t := by
  obtain rfl := Host.Outcome.next.inj h
  split
  · exact .answers ..
  · split
    · exact ((OnlyChanges.same _ s).notify _ _).ret _ _ _
    · split <;> exact ((OnlyChanges.setChan s c _).notify _ _).ret _ _ _

theorem onlyChanges_bsRxBytes (c : Chan) (bytes : List Byte) (s t : State) (h : exec (.bsRxBytes c bytes) s = .next t) :
    OnlyChanges (some (.chan c)) s t := by
  obtain rfl := Host.Outcome.next.inj h
  split
  · split
    · exact ((OnlyChanges.setChan s c _).notify _ _).notify _ _
    · exact (OnlyChanges.setChan s c _).notify _ _
  · exact .same ..

theorem onlyChanges_slGapFire (s t : State) (h : exec .slGapFire s = .next t) : OnlyChanges (some .slave) s t := by
  obtain rfl := Host.Outcome.next.inj h
  split
  · unfold State.slaveProcess
    split
    · rfl
    · obtain ⟨bank, body, notes, -, hrun⟩ := slaveRun_effect { s with sl := { s.sl with asm := [], gapArmed := false } } _
      rw [hrun]
      rfl
  · rfl

/-- An operation changes its own part only. -/
theorem exec_onlyChanges (i : Instr) (s t : State) (h : exec i s = .next t) : OnlyChanges (changedPart i) s t := by
  cases i
  case slvReadHoldingRegisters unit data => exact onlyChanges_slaveInstr ⟨unit, 0x03#8, data⟩ s t h
  case slvReadInputRegisters unit data => exact onlyChanges_slaveInstr ⟨unit, 0x04#8, data⟩ s t h
  case slvWriteSingleRegister unit data => exact onlyChanges_slaveInstr ⟨unit, 0x06#8, data⟩ s t h
  case slvWriteMultipleRegisters unit data => exact onlyChanges_slaveInstr ⟨unit, 0x10#8, data⟩ s t h
  case slGapFire => exact onlyChanges_slGapFire s t h
  case rmMasterPoll => exact onlyChanges_rmMasterPoll s t h
  case tmTcpPoll => exact onlyChanges_tmTcpPoll s t h
  case canThreadStep => exact onlyChanges_canThreadStep s t h
  case bsOpen c config draw => exact onlyChanges_bsOpen c config draw s t h
  case bsRxBytes c bytes => exact onlyChanges_bsRxBytes c bytes s t h
  all_goals obtain rfl := Host.Outcome.next.inj h
  case slvUnsupportedFunction => split <;> rfl
  case exceptionResponseDecode link fc code =>
    cases link
    · exact onlyChanges_rtuException s fc code
    · exact onlyChanges_tcpException s fc code
  case bsClose c =>
    split
    · exact ((OnlyChanges.setChan s c _).notify _ _).ret _ _ _
    · exact (OnlyChanges.setChan s c _).ret _ _ _
  case bsWrite c bytes => exact (OnlyChanges.setChan s c _).ret _ _ _
  case bsReadAvailable c => exact (OnlyChanges.setChan s c _).ret _ _ _
  case bsReadLine c =>
    split
    · exact (OnlyChanges.setChan s c _).ret _ _ _
    · exact .answers ..
  case bsTxDrain c k =>
    split
    · exact .setChan ..
    · exact .same ..
  case bsChanError c kind =>
    split
    · exact ((OnlyChanges.breaks s c _).notify _ _).notify _ _
    · exact .same ..
  case bsWaitReady =>
    unfold State.callWait
    split <;> rfl
  case canReadFrame => split <;> rfl
  case tmConnect =>
    split
    · rfl
    · split <;> rfl
  case canStart | canStop | canNormalDrain | slSetHoldingRegister | slSetInputRegister | slSlaveRx | tmDisconnect | tmTcpRx |
      tmTcpPeerClose => split <;> rfl
  case rtuReadCoils | rtuReadDiscreteInputs | rtuReadHoldingRegisters | rtuReadInputRegisters | rtuWriteSingleCoil |
      rtuWriteSingleRegister | rtuWriteMultipleCoils | rtuWriteMultipleRegisters => exact onlyChanges_rtuWire ..
  case tcpReadCoils | tcpReadDiscreteInputs | tcpReadHoldingRegisters | tcpReadInputRegisters | tcpWriteSingleCoil |
      tcpWriteSingleRegister | tcpWriteMultipleCoils | tcpWriteMultipleRegisters => exact onlyChanges_tcpWire ..
  case rmReadCoils | rmReadDiscreteInputs | rmReadHoldingRegisters | rmReadInputRegisters | rmWriteSingleCoil |
      rmWriteSingleRegister | rmWriteMultipleCoils | rmWriteMultipleRegisters => exact onlyChanges_rtuCall ..
  case tmReadCoils | tmReadDiscreteInputs | tmReadHoldingRegisters | tmReadInputRegisters | tmWriteSingleCoil |
      tmWriteSingleRegister | tmWriteMultipleCoils | tmWriteMultipleRegisters => exact onlyChanges_tcpCall ..
  all_goals rfl

end Sys2Proof.Machine
end

section
/-! What a change of one field says about the part that changed, and which operations have that part. -/
open Sys2Proof.Claims

namespace Sys2Proof.Machine

section
variable {part : Option Part} {s t : State}

/-- What a reading of `t` is, in terms of `s` and the part that changed. -/
theorem OnlyChanges.reads {α : Type} (h : OnlyChanges part s t) (f : State → α) :
    f t = f { s.withPart t part with out := t.out, returns := t.returns, waits := t.waits } :=
  congrArg f h

theorem OnlyChanges.params_inbox (h : OnlyChanges part s t) : t.params = s.params ∧ t.inbox = s.inbox := by
  rcases part with - | (- | - | ⟨- | - | -⟩ | - | - | - | -) <;> exact ⟨h.reads State.params, h.reads State.inbox⟩

theorem OnlyChanges.part_of_crcAcc_ne (h : OnlyChanges part s t) (hne : t.crcAcc ≠ s.crcAcc) : part = some .crc := by
  rcases part with - | (- | - | ⟨- | - | -⟩ | - | - | - | -)
  case some.crc => rfl
  all_goals exact absurd (h.reads State.crcAcc) hne

theorem OnlyChanges.part_of_can_ne (h : OnlyChanges part s t) (hne : t.can ≠ s.can) : part = some .can := by
  rcases part with - | (- | - | ⟨- | - | -⟩ | - | - | - | -)
  case some.can => rfl
  all_goals exact absurd (h.reads State.can) hne

theorem OnlyChanges.part_of_bs_ne (h : OnlyChanges part s t) (hne : t.bs ≠ s.bs) : part = some (.chan .host) := by
  rcases part with - | (- | - | ⟨- | - | -⟩ | - | - | - | -)
  case some.chan.host => rfl
  all_goals exact absurd (h.reads State.bs) hne

theorem OnlyChanges.part_of_sl_ne (h : OnlyChanges part s t) (hne : t.sl ≠ s.sl) :
    part = some .slave ∨ part = some (.chan .slave) := by
  rcases part with - | (- | - | ⟨- | - | -⟩ | - | - | - | -)
  case some.slave => exact .inl rfl
  case some.chan.slave => exact .inr rfl
  all_goals exact absurd (h.reads State.sl) hne

theorem OnlyChanges.part_of_rm_ne (h : OnlyChanges part s t) (hne : t.rm ≠ s.rm) :
    part = some .rtuMaster ∨ part = some (.chan .master) := by
  rcases part with - | (- | - | ⟨- | - | -⟩ | - | - | - | -)
  case some.rtuMaster => exact .inl rfl
  case some.chan.master => exact .inr rfl
  all_goals exact absurd (h.reads State.rm) hne

theorem OnlyChanges.part_of_tm_ne (h : OnlyChanges part s t) (hne : t.tm ≠ s.tm) : part = some .tcpMaster := by
  rcases part with - | (- | - | ⟨- | - | -⟩ | - | - | - | -)
  case some.tcpMaster => rfl
  all_goals exact absurd (h.reads State.tm) hne

theorem OnlyChanges.part_of_now_ne (h : OnlyChanges part s t) (hne : t.now ≠ s.now) : part = some .clock := by
  rcases part with - | (- | - | ⟨- | - | -⟩ | - | - | - | -)
  case some.clock => rfl
  all_goals exact absurd (h.reads State.now) hne

/-- The slave's channel is no part of its banks. -/
theorem OnlyChanges.banks_of_ne_slave (h : OnlyChanges part s t) (hpart : part ≠ some .slave) :
    t.sl.hr = s.sl.hr ∧ t.sl.ir = s.sl.ir := by
  rcases part with - | (- | - | ⟨- | - | -⟩ | - | - | - | -)
  case some.slave => exact absurd rfl hpart
  all_goals exact ⟨h.reads (·.sl.hr), h.reads (·.sl.ir)⟩

/-- An operation that changes the slave, or its channel, leaves every other unit. -/
theorem OnlyChanges.frame_of_sl_ne (h : OnlyChanges part s t) (hne : t.sl ≠ s.sl) :
    t.crcAcc = s.crcAcc ∧ t.can = s.can ∧ t.bs = s.bs ∧ t.rm = s.rm ∧ t.tm = s.tm ∧ t.now = s.now := by
  rcases h.part_of_sl_ne hne with rfl | rfl <;>
    exact ⟨h.reads State.crcAcc, h.reads State.can, h.reads State.bs, h.reads State.rm, h.reads State.tm,
      h.reads State.now⟩

theorem OnlyChanges.frame_of_rm_ne (h : OnlyChanges part s t) (hne : t.rm ≠ s.rm) :
    t.crcAcc = s.crcAcc ∧ t.can = s.can ∧ t.bs = s.bs ∧ t.sl = s.sl ∧ t.tm = s.tm ∧ t.now = s.now := by
  rcases h.part_of_rm_ne hne with rfl | rfl <;>
    exact ⟨h.reads State.crcAcc, h.reads State.can, h.reads State.bs, h.reads State.sl, h.reads State.tm,
      h.reads State.now⟩

theorem OnlyChanges.frame_of_tm_ne (h : OnlyChanges part s t) (hne : t.tm ≠ s.tm) :
    t.crcAcc = s.crcAcc ∧ t.can = s.can ∧ t.bs = s.bs ∧ t.sl = s.sl ∧ t.rm = s.rm ∧ t.now = s.now := by
  obtain rfl := h.part_of_tm_ne hne
  exact ⟨h.reads State.crcAcc, h.reads State.can, h.reads State.bs, h.reads State.sl, h.reads State.rm,
    h.reads State.now⟩

end

theorem tick_of_changedPart {i : Instr} (h : changedPart i = some .clock) : ∃ dt, i = .tick dt := by
  cases i
  case tick dt => exact ⟨dt, rfl⟩
  case exceptionResponseDecode link fc code => cases link <;> cases h
  all_goals cases h

theorem crc_of_changedPart {i : Instr} (h : changedPart i = some .crc) : i = .crcInit ∨ ∃ b, i = .crcByte b := by
  cases i
  case crcInit => exact .inl rfl
  case crcByte b => exact .inr ⟨b, rfl⟩
  case exceptionResponseDecode link fc code => cases link <;> cases h
  all_goals cases h

theorem can_of_changedPart {i : Instr} (h : changedPart i = some .can) :
    i.space = spaceOperation ∧ i.opcode ∈ [0x20#8, 0x21#8, 0x22#8, 0x23#8, 0x84#8, 0x85#8, 0x86#8] := by
  cases i
  case canStart | canStop | canReadFrame | canReadAllFrames | canArrive | canThreadStep | canNormalDrain =>
    exact ⟨rfl, by simp [Instr.opcode]⟩
  case exceptionResponseDecode link fc code => cases link <;> cases h
  all_goals cases h

theorem onChannel_of_changedPart {i : Instr} {c : Chan} (h : changedPart i = some (.chan c)) : onChannel c i := by
  cases i
  case bsOpen | bsClose | bsWrite | bsReadAvailable | bsReadLine | bsRxBytes | bsTxDrain | bsChanError =>
    cases h
    simp [onChannel]
  case exceptionResponseDecode link fc code => cases link <;> cases h
  all_goals cases h

theorem slave_of_changedPart {i : Instr} (h : changedPart i = some .slave) :
    i.space = spaceSlaveExecutes ∨ i.space = spaceSlaveSends ∨
      (i.space = spaceOperation ∧ i.opcode ∈ [0x30#8, 0x32#8, 0x87#8, 0x88#8]) := by
  cases i
  case slvReadHoldingRegisters | slvReadInputRegisters | slvWriteSingleRegister | slvWriteMultipleRegisters |
      slvUnsupportedFunction => exact .inl rfl
  case exceptionResponseBuild => exact .inr (.inl rfl)
  case slSetHoldingRegister | slSetInputRegister | slSlaveRx | slGapFire =>
    exact .inr (.inr ⟨rfl, by simp [Instr.opcode]⟩)
  case exceptionResponseDecode link fc code => cases link <;> cases h
  all_goals cases h

theorem rtuMaster_of_changedPart {i : Instr} (h : changedPart i = some .rtuMaster) :
    i.space = spaceRtuMaster ∨ (∃ fc code, i = .exceptionResponseDecode .rtu fc code) ∨
      (i.space = spaceOperation ∧
        i.opcode ∈ [0x40#8, 0x41#8, 0x42#8, 0x43#8, 0x44#8, 0x45#8, 0x46#8, 0x47#8, 0x89#8]) := by
  cases i
  case rtuReadCoils | rtuReadDiscreteInputs | rtuReadHoldingRegisters | rtuReadInputRegisters | rtuWriteSingleCoil |
      rtuWriteSingleRegister | rtuWriteMultipleCoils | rtuWriteMultipleRegisters => exact .inl rfl
  case exceptionResponseDecode link fc code =>
    cases link
    · exact .inr (.inl ⟨fc, code, rfl⟩)
    · cases h
  case rmReadCoils | rmReadDiscreteInputs | rmReadHoldingRegisters | rmReadInputRegisters | rmWriteSingleCoil |
      rmWriteSingleRegister | rmWriteMultipleCoils | rmWriteMultipleRegisters | rmMasterPoll =>
    exact .inr (.inr ⟨rfl, by simp [Instr.opcode]⟩)
  all_goals cases h

theorem tcpMaster_of_changedPart {i : Instr} (h : changedPart i = some .tcpMaster) :
    i.space = spaceTcpMaster ∨ (∃ fc code, i = .exceptionResponseDecode .tcp fc code) ∨
      (i.space = spaceOperation ∧
        i.opcode ∈ [0x50#8, 0x51#8, 0x52#8, 0x53#8, 0x54#8, 0x55#8, 0x56#8, 0x57#8, 0x58#8, 0x59#8, 0x8A#8, 0x8B#8,
          0x8C#8]) := by
  cases i
  case tcpReadCoils | tcpReadDiscreteInputs | tcpReadHoldingRegisters | tcpReadInputRegisters | tcpWriteSingleCoil |
      tcpWriteSingleRegister | tcpWriteMultipleCoils | tcpWriteMultipleRegisters => exact .inl rfl
  case exceptionResponseDecode link fc code =>
    cases link
    · cases h
    · exact .inr (.inl ⟨fc, code, rfl⟩)
  case tmReadCoils | tmReadDiscreteInputs | tmReadHoldingRegisters | tmReadInputRegisters | tmWriteSingleCoil |
      tmWriteSingleRegister | tmWriteMultipleCoils | tmWriteMultipleRegisters | tmConnect | tmDisconnect | tmTcpRx |
      tmTcpPoll | tmTcpPeerClose => exact .inr (.inr ⟨rfl, by simp [Instr.opcode]⟩)
  all_goals cases h

/-- No operation writes the parameters or the inputs to come, and only `Tick` moves the clock. -/
theorem exec_clock (i : Instr) (s t : State) (h : exec i s = .next t) :
    t.params = s.params ∧ t.inbox = s.inbox ∧ (t.now ≠ s.now → ∃ dt, i = .tick dt) := by
  have hpart := exec_onlyChanges i s t h
  obtain ⟨hparams, hinbox⟩ := hpart.params_inbox
  exact ⟨hparams, hinbox, fun hne => tick_of_changedPart (hpart.part_of_now_ne hne)⟩

end Sys2Proof.Machine

open Sys2Proof.Machine in
/-- Settles O52: an operation changes its own part only, and the part says which operations it can have been. -/
theorem unitsShareNoState : Obligations.UnitsShareNoState := by
  intro i s t hexec
  have h := exec_onlyChanges i s t hexec
  refine ⟨fun hne => crc_of_changedPart (h.part_of_crcAcc_ne hne), fun hne => can_of_changedPart (h.part_of_can_ne hne),
    fun hne => onChannel_of_changedPart (h.part_of_bs_ne hne), fun hne => ?slave, fun hne => ?rtu,
    fun hne => tcpMaster_of_changedPart (h.part_of_tm_ne hne), h.frame_of_sl_ne, h.frame_of_rm_ne, h.frame_of_tm_ne⟩
  case slave =>
    rcases h.part_of_sl_ne hne with hpart | hpart
    · rcases slave_of_changedPart hpart with hexecutes | hsends | hoperation
      exacts [.inl hexecutes, .inr (.inl hsends), .inr (.inr (.inl hoperation))]
    · exact .inr (.inr (.inr (onChannel_of_changedPart hpart)))
  case rtu =>
    rcases h.part_of_rm_ne hne with hpart | hpart
    · rcases rtuMaster_of_changedPart hpart with hwire | hdecode | hoperation
      exacts [.inl hwire, .inr (.inl hdecode), .inr (.inr (.inl hoperation))]
    · exact .inr (.inr (.inr (onChannel_of_changedPart hpart)))

open Sys2Proof.Machine in
/-- Settles O50: `Tick` is the one operation whose part is the clock, and neither last steps nor configuration writes have it. -/
theorem onlyTickMovesTheClock : Obligations.OnlyTickMovesTheClock := by
  refine ⟨fun s dt => rfl, exec_clock, fun s t h hne => ?_⟩
  rcases step_cases s t h with ⟨rest, hlast⟩ | ⟨rest, rfl⟩ | ⟨bytes, rest, i, hinbox, hdecode, hi⟩ | ⟨w, rest, -, rfl⟩
  · cases hlast <;> exact absurd rfl hne
  · exact absurd rfl hne
  · obtain ⟨-, -, hclock⟩ := exec_clock i _ t hi
    obtain ⟨dt, rfl⟩ := hclock hne
    exact ⟨bytes, rest, dt, hinbox, hdecode, (Host.Outcome.next.inj hi).symm⟩
  · refine absurd ?_ hne
    rcases configure_cases { s with inbox := rest } w with ⟨notes, results, hw⟩ | ⟨-, -, hw⟩
    · rw [hw]
    · rw [hw]
      exact setConfig_now _ w
end

section
/-! The register banks and their writers. -/
namespace Sys2Proof.Machine

/-- Executing a frame writes the holding bank for the function codes 0x06 and 0x10 only. -/
theorem slaveRun_hr (s : State) (p : RtuPdu) (h06 : p.fc.toNat ≠ 0x06) (h10 : p.fc.toNat ≠ 0x10) :
    (s.slaveRun p).sl.hr = s.sl.hr := by
  have hread : ∀ fc bank, (s.slaveRead fc bank p.unit p.data).sl.hr = s.sl.hr := by
    intro fc bank
    unfold State.slaveRead
    dsimp only
    split
    · rfl
    · split
      · rfl
      · split <;> rfl
  unfold State.slaveRun
  split
  · exact hread _ _
  · exact hread _ _
  · exact absurd ‹_› h06
  · exact absurd ‹_› h10
  · rfl

/-- A frame whose execution writes the holding bank is an operation 0x06 or 0x10. -/
theorem slaveInstr_of_hr_ne (s : State) (p : RtuPdu) (hne : (s.slaveRun p).sl.hr ≠ s.sl.hr) :
    slaveInstr p = .slvWriteSingleRegister p.unit p.data ∨ slaveInstr p = .slvWriteMultipleRegisters p.unit p.data := by
  by_cases h06 : p.fc.toNat = 0x06
  · exact .inl (by simp [slaveInstr, h06])
  · by_cases h10 : p.fc.toNat = 0x10
    · exact .inr (by simp [slaveInstr, h10])
    · exact absurd (slaveRun_hr s p h06 h10) hne

/-- An accepted frame is one that opens, and its unit address is the slave's. -/
theorem rtuCheck_eq_ok {frame : List Byte} {a : Byte} {p : RtuPdu} (h : rtuCheck frame a = .ok p) :
    slaveDecode frame = some (slaveInstr p) ∧ p.unit = a := by
  unfold rtuCheck at h
  split at h
  · cases h
  · rename_i q hopen
    split at h
    · obtain rfl := Except.ok.inj h
      exact ⟨by simp only [slaveDecode, hopen], ‹_›⟩
    · cases h

/-- `GapFire` with the timer expired clears the assembly buffer, and executes the frame when the slave accepts it. -/
theorem slGapFire_cases (s t : State) (h : exec .slGapFire s = .next t) :
    (t.sl.hr = s.sl.hr ∧ t.sl.ir = s.sl.ir) ∨ ∃ p, slaveDecode s.sl.asm = some (slaveInstr p) ∧ p.unit = s.sl.addr ∧
      t = State.slaveRun { s with sl := { s.sl with asm := [], gapArmed := false } } p := by
  obtain rfl := Host.Outcome.next.inj h
  split
  · unfold State.slaveProcess
    split
    · exact .inl ⟨rfl, rfl⟩
    · rename_i p hp
      obtain ⟨hdecode, hunit⟩ := rtuCheck_eq_ok hp
      exact .inr ⟨p, hdecode, hunit, rfl⟩
  · exact .inl ⟨rfl, rfl⟩

/-- A wire operation of the slave is executed when it is addressed to this slave, and is silent otherwise. -/
theorem slaveInstr_cases {s t : State} {p : RtuPdu} (h : exec (slaveInstr p) s = .next t) :
    t = s ∨ p.unit = s.sl.addr ∧ t = s.slaveRun p := by
  rw [exec_slaveInstr, Host.Outcome.next.injEq] at h
  subst h
  split
  · exact .inr ⟨‹_›, rfl⟩
  · exact .inl rfl

/-- A wire operation of the slave that changes the holding bank is 0x06 or 0x10, addressed to this slave. -/
theorem slaveInstr_writer {s t : State} {p : RtuPdu} (h : exec (slaveInstr p) s = .next t) (hne : t.sl.hr ≠ s.sl.hr) :
    p.unit = s.sl.addr ∧ (slaveInstr p = .slvWriteSingleRegister p.unit p.data ∨
      slaveInstr p = .slvWriteMultipleRegisters p.unit p.data) := by
  rcases slaveInstr_cases h with rfl | ⟨hunit, rfl⟩
  · exact absurd rfl hne
  · exact ⟨hunit, slaveInstr_of_hr_ne s p hne⟩

/-- No frame writes the input bank. -/
theorem slaveRun_ir (s : State) (p : RtuPdu) : (s.slaveRun p).sl.ir = s.sl.ir := by
  obtain ⟨bank, body, notes, -, h⟩ := slaveRun_effect s p
  rw [h]

theorem slaveInstr_ir {s t : State} {p : RtuPdu} (h : exec (slaveInstr p) s = .next t) : t.sl.ir = s.sl.ir := by
  rcases slaveInstr_cases h with rfl | ⟨-, rfl⟩
  · rfl
  · exact slaveRun_ir s p

/-- An operation that writes a bank is one of the slave's. -/
theorem changedPart_of_banks_ne {i : Instr} {s t : State} (h : exec i s = .next t)
    (hne : t.sl.hr ≠ s.sl.hr ∨ t.sl.ir ≠ s.sl.ir) : changedPart i = some .slave := by
  by_contra hpart
  obtain ⟨hhr, hir⟩ := (exec_onlyChanges i s t h).banks_of_ne_slave hpart
  exact hne.elim (absurd hhr) (absurd hir)

theorem holding_writer (i : Instr) (s t : State) (h : exec i s = .next t) (hne : t.sl.hr ≠ s.sl.hr) :
    (∃ data, i = .slvWriteSingleRegister s.sl.addr data) ∨ (∃ data, i = .slvWriteMultipleRegisters s.sl.addr data) ∨
      (∃ addr value, i = .slSetHoldingRegister addr value) ∨
      (i = .slGapFire ∧ ∃ data, slaveDecode s.sl.asm = some (.slvWriteSingleRegister s.sl.addr data) ∨
        slaveDecode s.sl.asm = some (.slvWriteMultipleRegisters s.sl.addr data)) := by
  have hpart := changedPart_of_banks_ne h (.inl hne)
  cases i
  case slvReadHoldingRegisters unit data =>
    obtain ⟨-, hi | hi⟩ := slaveInstr_writer (p := ⟨unit, 0x03#8, data⟩) h hne <;> cases hi
  case slvReadInputRegisters unit data =>
    obtain ⟨-, hi | hi⟩ := slaveInstr_writer (p := ⟨unit, 0x04#8, data⟩) h hne <;> cases hi
  case slvWriteSingleRegister unit data =>
    obtain ⟨rfl, -⟩ := slaveInstr_writer (p := ⟨unit, 0x06#8, data⟩) h hne
    exact .inl ⟨data, rfl⟩
  case slvWriteMultipleRegisters unit data =>
    obtain ⟨rfl, -⟩ := slaveInstr_writer (p := ⟨unit, 0x10#8, data⟩) h hne
    exact .inr (.inl ⟨data, rfl⟩)
  case slSetHoldingRegister addr value => exact .inr (.inr (.inl ⟨addr, value, rfl⟩))
  case slGapFire =>
    rcases slGapFire_cases s t h with ⟨hsame, -⟩ | ⟨p, hdecode, hunit, rfl⟩
    · exact absurd hsame hne
    · refine .inr (.inr (.inr ⟨rfl, p.data, ?_⟩))
      rcases slaveInstr_of_hr_ne _ p hne with hi | hi
      · exact .inl (by rw [hdecode, hi, hunit])
      · exact .inr (by rw [hdecode, hi, hunit])
  case exceptionResponseDecode link fc code => cases link <;> cases hpart
  all_goals
    obtain rfl := Host.Outcome.next.inj h
    refine absurd ?_ hne
  case slvUnsupportedFunction => split <;> rfl
  case exceptionResponseBuild => rfl
  case slSetInputRegister | slSlaveRx => split <;> rfl
  all_goals cases hpart

theorem input_writer (i : Instr) (s t : State) (h : exec i s = .next t) (hne : t.sl.ir ≠ s.sl.ir) :
    ∃ addr value, i = .slSetInputRegister addr value := by
  have hpart := changedPart_of_banks_ne h (.inr hne)
  cases i
  case slSetInputRegister addr value => exact ⟨addr, value, rfl⟩
  case exceptionResponseDecode link fc code => cases link <;> cases hpart
  case slvReadHoldingRegisters unit data => exact absurd (slaveInstr_ir (p := ⟨unit, 0x03#8, data⟩) h) hne
  case slvReadInputRegisters unit data => exact absurd (slaveInstr_ir (p := ⟨unit, 0x04#8, data⟩) h) hne
  case slvWriteSingleRegister unit data => exact absurd (slaveInstr_ir (p := ⟨unit, 0x06#8, data⟩) h) hne
  case slvWriteMultipleRegisters unit data => exact absurd (slaveInstr_ir (p := ⟨unit, 0x10#8, data⟩) h) hne
  case slGapFire =>
    rcases slGapFire_cases s t h with ⟨-, hsame⟩ | ⟨p, -, -, rfl⟩
    · exact absurd hsame hne
    · exact absurd (slaveRun_ir _ p) hne
  all_goals
    obtain rfl := Host.Outcome.next.inj h
    refine absurd ?_ hne
  case slvUnsupportedFunction | slSetHoldingRegister | slSlaveRx => split <;> rfl
  case exceptionResponseBuild => rfl
  all_goals cases hpart

/-- No operation resizes a bank. -/
theorem effect_bank_lengths (s t : State) (h : Effect s t) :
    t.sl.hr.length = s.sl.hr.length ∧ t.sl.ir.length = s.sl.ir.length := by
  cases h
  case chan c ch notes results move => cases c <;> exact ⟨rfl, rfl⟩
  case chanBreaks c notes hopen => cases c <;> exact ⟨rfl, rfl⟩
  case slaveRuns hrun =>
    obtain ⟨bank, body, notes, hbank, rfl⟩ := hrun
    exact ⟨hbank, rfl⟩
  case slaveFires hexpired hrun =>
    obtain ⟨bank, body, notes, hbank, rfl⟩ := hrun
    exact ⟨hbank, rfl⟩
  case holding bank results hbank => exact ⟨hbank, rfl⟩
  case input bank results hbank => exact ⟨rfl, hbank⟩
  all_goals exact ⟨rfl, rfl⟩

end Sys2Proof.Machine

open Sys2Proof.Machine in
/-- Settles O33: the banks lie in the slave's part of the state, and of the operations that have this part only the writers of
`holding_writer` and `input_writer` change them. -/
theorem banksAreWrittenOnlyByTheirWriters : Obligations.BanksAreWrittenOnlyByTheirWriters := by
  intro i s t h
  exact ⟨holding_writer i s t h, input_writer i s t h, effect_bank_lengths s t (exec_effect i s t h)⟩
end

section
/-! Configuration writes in the words of the rules. -/
open Sys2Proof.Claims

namespace Sys2Proof.Machine

theorem settingLegal_iff (w : ConfigWrite) : settingLegal w ↔ w.legal = true := by
  cases w
  case canPrio v => exact ⟨fun _ => rfl, fun _ => trivial⟩
  case slAddr v | rmUnit v | tmUnit v => exact (legalUnit_iff v).symm
  case canBitrate v | canQcap v | canVcap v | slGapMs v | rmTimeoutMs v | tmTimeoutMs v =>
    exact (decide_eq_true_iff (p := 1 ≤ v)).symm

theorem unitInactive_iff (s : State) (w : ConfigWrite) : unitInactive s w ↔ s.mayConfigure w = true := by
  cases w <;> simp [unitInactive, State.mayConfigure, Can.started, Slave.inactive, Channel.isOpen, RtuMaster.isIdle,
    TcpMaster.isIdle]

end Sys2Proof.Machine

open Sys2Proof.Machine in
/-- Settles O53: the three cases are the three branches of `State.configure`. -/
theorem configurationIsWrittenWhileInactive : Obligations.ConfigurationIsWrittenWhileInactive := by
  intro s w
  dsimp only
  rw [settingLegal_iff, unitInactive_iff]
  refine ⟨fun hillegal => ?illegal, fun hlegal hactive => ?active, fun hlegal hinactive => ?written⟩
  case illegal =>
    rw [State.configure, if_pos (by simpa using hillegal)]
    rfl
  case active =>
    rw [State.configure, if_neg (by simp [hlegal]), if_pos (by simpa using hactive)]
    simp [State.retConfigure, traced]
  case written =>
    rw [State.configure, if_neg (by simp [hlegal]), if_neg (by simp [hinactive])]
    cases w <;> simp [State.retConfigure, traced, State.setConfig, settingWritten]
end

section
/-! Received = dropped + queued + handed out, kept while the receive path is started (R32). -/
open Sys2Proof.Claims

namespace Sys2Proof.Machine

/-- How many frames have been handed to the host. -/
def State.handedOut (s : State) : Nat := (s.returns.map framesGiven).sum

/-- From `s` to `t`, received less dropped, queued and handed out has not changed. -/
def FramesBalanced (s t : State) : Prop :=
  t.can.received + s.can.dropped + s.can.q.length + s.handedOut =
    s.can.received + t.can.dropped + t.can.q.length + t.handedOut

/-- The claims' count of frames handed out is the model's. -/
theorem framesGiven_eq (r : Return) : framesGiven r = r.result.frameCount := by
  unfold framesGiven Result.frameCount
  split <;> simp_all

theorem FramesBalanced.trans {s t u : State} (hst : FramesBalanced s t) (htu : FramesBalanced t u) : FramesBalanced s u := by
  unfold FramesBalanced at *
  omega

/-- Where the counters and the queue stay, only what is handed out counts. -/
theorem balanced_of_can_eq {s t : State} (hreceived : t.can.received = s.can.received)
    (hdropped : t.can.dropped = s.can.dropped) (hq : t.can.q = s.can.q) (hhanded : t.handedOut = s.handedOut) :
    FramesBalanced s t := by
  unfold FramesBalanced
  rw [hreceived, hdropped, hq, hhanded]

theorem handedOut_append {s t : State} {results : List Return} (h : t.returns = s.returns ++ results) :
    t.handedOut = s.handedOut + (results.map fun r => r.result.frameCount).sum := by
  have hcount : framesGiven = fun r => r.result.frameCount := funext framesGiven_eq
  simp only [State.handedOut, h, List.map_append, List.sum_append, hcount]

/-- One further result that is no frame. -/
theorem handedOut_answer {s t : State} {r : Return} (h : t.returns = s.returns ++ [r]) (hr : r.result.frameCount = 0) :
    t.handedOut = s.handedOut := by
  simp [handedOut_append h, hr]

theorem HandsNone.handedOut_eq {s t : State} (h : HandsNone s t) : t.handedOut = s.handedOut := by
  obtain ⟨results, hreturns, hnone⟩ := h
  rw [handedOut_append hreturns, List.sum_eq_zero (by simpa using hnone), Nat.add_zero]

/-- A push of the receive thread: one frame more received, and one more queued unless the oldest is dropped. -/
theorem Can.enqueue_balance {can : Can} (f : CanFrame) (hcap : 1 ≤ can.qcap) :
    (can.enqueue f).received + can.dropped + can.q.length = can.received + (can.enqueue f).dropped + (can.enqueue f).q.length := by
  unfold Can.enqueue
  split <;> simp <;> omega

/-- A read of the queue: the frames that left it are those handed out. -/
theorem balanced_of_read {s : State} {fs : List CanFrame} {results : List Return} (hstarted : s.can.started = true)
    (handed : (results.map fun r => r.result.frameCount).sum + fs.length = s.can.activeBuffer.length) :
    FramesBalanced s { s with can := s.can.setActiveBuffer fs, returns := s.returns ++ results } := by
  unfold FramesBalanced
  have hhanded : State.handedOut { s with can := s.can.setActiveBuffer fs, returns := s.returns ++ results } = _ :=
    handedOut_append rfl
  rw [hhanded]
  simp only [Can.activeBuffer, hstarted, if_true] at handed
  simp only [Can.setActiveBuffer, hstarted, if_true]
  omega

/-- An operation that hands out no frame. `start` and the end of the thread do not come where the path is started before and
after. -/
theorem effect_balanced {s t : State} (h : Effect s t) (hnone : HandsNone s t) (hs : s.can.started = true)
    (ht : t.can.started = true) (hcap : 1 ≤ s.can.qcap) : FramesBalanced s t := by
  have hhanded := hnone.handedOut_eq
  cases h
  case canStarts results hstopped => exact absurd (hs.symm.trans hstopped) (by decide)
  case canEnds => cases ht
  case canReads fs results suffix handed => exact balanced_of_read hs handed
  case canPushes f rest notes hstarted hrun hdevq =>
    have hpush := s.can.enqueue_balance f hcap
    unfold FramesBalanced
    rw [hhanded]
    simp only
    omega
  case chan c ch notes results move => exact balanced_of_can_eq (by simp) (by simp) (by simp) hhanded
  case chanBreaks c notes hopen => exact balanced_of_can_eq (by simp) (by simp) (by simp) hhanded
  case slaveRuns hrun =>
    obtain ⟨bank, body, notes, -, rfl⟩ := hrun
    exact balanced_of_can_eq rfl rfl rfl hhanded
  case slaveFires hexpired hrun =>
    obtain ⟨bank, body, notes, -, rfl⟩ := hrun
    exact balanced_of_can_eq rfl rfl rfl hhanded
  all_goals exact balanced_of_can_eq rfl rfl rfl hhanded

theorem exec_balanced (i : Instr) (s t : State) (h : exec i s = .next t) (hs : s.can.started = true)
    (ht : t.can.started = true) (hcap : 1 ≤ s.can.qcap) : FramesBalanced s t := by
  by_cases hone : i = .canReadFrame
  · subst hone
    obtain rfl := Host.Outcome.next.inj h
    split
    · exact balanced_of_can_eq rfl rfl rfl (handedOut_answer rfl rfl)
    · rename_i f rest hbuffer
      exact balanced_of_read hs (results := [_]) (by simp [hbuffer, Result.frameCount]; omega)
  by_cases hall : i = .canReadAllFrames
  · subst hall
    obtain rfl := Host.Outcome.next.inj h
    exact balanced_of_read hs (results := [_]) (by simp [Result.frameCount])
  exact effect_balanced (exec_effect i s t h) (exec_handsNone i s t h hone hall) hs ht hcap

/-- The last step of a `stop` that ends the thread does not leave the path started. -/
theorem LastStep.balanced {s t : State} (h : LastStep s t) (ht : t.can.started = true) : FramesBalanced s t := by
  cases h with
  | wait w b before after split due =>
    exact balanced_of_can_eq rfl rfl rfl (handedOut_answer rfl rfl)
  | stop c before after split ended =>
    have hjoined : c.joined = true := by
      by_contra hjoined
      simp [Can.halted, hjoined, Can.started] at ht
    have hcan : s.can.halted c = s.can := by simp [Can.halted, hjoined]
    exact balanced_of_can_eq (by simp [hcan]) (by simp [hcan]) (by simp [hcan])
      (handedOut_answer rfl rfl)

theorem configure_balanced (s : State) (w : ConfigWrite) : FramesBalanced s (s.configure w) := by
  unfold State.configure
  split
  · exact balanced_of_can_eq rfl rfl rfl (handedOut_answer rfl rfl)
  · split
    · exact balanced_of_can_eq rfl rfl rfl (handedOut_answer rfl rfl)
    · have hreturns : ((s.setConfig w).retConfigure w true).returns = s.returns ++ [⟨w.source, .configure, .bool true⟩] := by
        simp
      have hcan : (s.setConfig w).can.received = s.can.received ∧ (s.setConfig w).can.dropped = s.can.dropped ∧
          (s.setConfig w).can.q = s.can.q := by
        cases w <;> exact ⟨rfl, rfl, rfl⟩
      obtain ⟨hreceived, hdropped, hq⟩ := hcan
      exact balanced_of_can_eq hreceived hdropped hq (handedOut_answer hreturns rfl)

theorem step_balanced (s t : State) (hcap : 1 ≤ s.can.qcap) (h : step s = .next t) (hs : s.can.started = true)
    (ht : t.can.started = true) : FramesBalanced s t := by
  rcases step_cases s t h with ⟨rest, hlast⟩ | ⟨rest, rfl⟩ | ⟨bytes, rest, i, -, -, hexec⟩ | ⟨w, rest, -, rfl⟩
  · exact hlast.balanced ht
  · exact balanced_of_can_eq rfl rfl rfl rfl
  · exact exec_balanced i { s with inbox := rest } t hexec hs ht hcap
  · exact configure_balanced { s with inbox := rest } w

/-- The receive path is started and its thread has not been told to end. -/
def State.pathRuns (s : State) : Prop := s.can.started = true ∧ s.can.running = true ∧ 1 ≤ s.can.qcap

/-- Thread turns, arrivals, host reads, counts and ticks. -/
def receiveStep (i : Instr) : Prop :=
  i = .canThreadStep ∨ (∃ f, i = .canArrive f) ∨ i = .canReadFrame ∨ i = .canReadAllFrames ∨ i = .canBufferedCount ∨
    i = .canReceivedCount ∨ i = .canDroppedCount ∨ ∃ dt, i = .tick dt

theorem setActiveBuffer_keeps_pathRuns {s : State} (fs : List CanFrame) (h : s.pathRuns) :
    State.pathRuns { s with can := s.can.setActiveBuffer fs } := by
  simp only [State.pathRuns, Can.setActiveBuffer, h.1, if_true]
  exact h

theorem threadStep_keeps_pathRuns {s t : State} (h : exec .canThreadStep s = .next t) (hs : s.pathRuns) : t.pathRuns := by
  obtain ⟨hstarted, hrun, hcap⟩ := hs
  obtain rfl := Host.Outcome.next.inj h
  split
  · unfold State.threadTurn
    split
    · rename_i f rest hdevq
      obtain ⟨hqcap, -, -, hrunning⟩ := s.can.enqueue_frame f
      dsimp only
      split <;> exact ⟨rfl, hrunning.trans hrun, hqcap.symm ▸ hcap⟩
    · exact ⟨rfl, hrun, hcap⟩
  · exact ⟨hstarted, hrun, hcap⟩

theorem receiveStep_keeps_pathRuns {i : Instr} {s t : State} (hi : receiveStep i) (h : exec i s = .next t)
    (hs : s.pathRuns) : t.pathRuns := by
  rcases hi with rfl | ⟨f, rfl⟩ | rfl | rfl | rfl | rfl | rfl | ⟨dt, rfl⟩
  · exact threadStep_keeps_pathRuns h hs
  all_goals obtain rfl := Host.Outcome.next.inj h
  · exact hs
  · split
    · exact hs
    · exact setActiveBuffer_keeps_pathRuns _ hs
  · exact setActiveBuffer_keeps_pathRuns [] hs
  all_goals exact hs

theorem execAll_balanced (run : List Instr) (s t : State) (hrun : ∀ i ∈ run, receiveStep i) (hs : s.pathRuns)
    (h : execAll run s = .next t) : FramesBalanced s t := by
  induction run generalizing s with
  | nil =>
    obtain rfl := Host.Outcome.next.inj h
    exact balanced_of_can_eq rfl rfl rfl rfl
  | cons i run ih =>
    rw [List.forall_mem_cons] at hrun
    unfold execAll at h
    split at h
    · rename_i u hu
      have hrest := receiveStep_keeps_pathRuns hrun.1 hu hs
      obtain ⟨hstarted, -, hcap⟩ := hs
      exact (exec_balanced i s u hu hstarted hrest.1 hcap).trans (ih u hrun.2 hrest h)
    · cases h
    · cases h

theorem Can.started_iff (can : Can) : can.started = true ↔ can.thread ≠ .stopped := by
  simp [Can.started]

end Sys2Proof.Machine

open Sys2Proof.Machine in
/-- Settles O25: every step that leaves the path started is balanced; a run of the receive path's own operations never clears
the flag, so the path stays started all along it. -/
theorem canFramesAreAccountedFor : Obligations.CanFramesAreAccountedFor := by
  refine ⟨fun run s t hrun hthread hflag hq hreceived hdropped hcap h => ?run, fun s t hok h hs ht => ?step⟩
  case run =>
    have hbalance := execAll_balanced run s t hrun ⟨s.can.started_iff.2 hthread, hflag, hcap⟩ h
    simp only [FramesBalanced, State.handedOut, hq, hreceived, hdropped, List.length_nil] at hbalance
    omega
  case step => exact step_balanced s t hok.1 h (s.can.started_iff.2 hs) (t.can.started_iff.2 ht)
end

section
/-! The bytes handed to the line, followed by those still queued for it, on a channel that stays open (R163). -/
namespace Sys2Proof.Machine

/-- Bytes are queued at the end, and a drain only moves the boundary between `TX` and `WQ`. The moves that clear the queue end
or begin on a channel that is not open. -/
theorem ChannelMove.tx_append_wq_prefix {p : Params} {ch ch' : Channel} (move : ChannelMove p ch ch')
    (hbefore : ch.state = .opened) (hafter : ch'.state = .opened) : ch.tx ++ ch.wq <+: ch'.tx ++ ch'.wq := by
  cases move with
  | opens cfg hclosed legal => simp [Channel.isOpen, hbefore] at hclosed
  | fails | closes | breaks => cases hafter
  | queues bytes hopen | sends bytes hopen => exact ⟨bytes, List.append_assoc ..⟩
  | drains k hopen =>
    have hsplit : ch.tx ++ ch.wq.take k ++ ch.wq.drop k = ch.tx ++ ch.wq := by rw [List.append_assoc, List.take_append_drop]
    exact hsplit ▸ List.prefix_rfl
  | stays | takes | receives => exact List.prefix_rfl

end Sys2Proof.Machine

open Sys2Proof.Machine in
/-- Settles O19: an operation moves each channel by `ChannelMove`, and no move between open states shortens or reorders the
bytes handed to the line and queued for it. -/
theorem openChannelsLoseNothing : Obligations.OpenChannelsLoseNothing := by
  intro i s t c h hbefore hafter
  have hmove := (effect_chan s t (exec_effect i s t h)).2 c
  obtain ⟨added, hadded⟩ := hmove.tx_append_wq_prefix hbefore hafter
  exact ⟨added, hadded.symm, hmove.tx_prefix⟩
end

section
/-! The input record (log 2): the reader that an opcode byte and a space byte select reads back the operands written after
them, whatever follows. -/
open Sys2Proof

namespace Sys2Proof

/-- The slave's operation by its function code, as R260 and R265 list the codes. -/
theorem slaveInstr_eq_ite (unit fc : Byte) (data : List Byte) :
    slaveInstr ⟨unit, fc, data⟩ =
      if fc = 0x03#8 then .slvReadHoldingRegisters unit data
      else if fc = 0x04#8 then .slvReadInputRegisters unit data
      else if fc = 0x06#8 then .slvWriteSingleRegister unit data
      else if fc = 0x10#8 then .slvWriteMultipleRegisters unit data
      else .slvUnsupportedFunction unit fc data := by
  simp only [← BitVec.toNat_inj]
  unfold slaveInstr
  split <;> simp_all

/-- The four supported codes are exactly those with an operation of their own. -/
theorem slaveInstr_of_unsupported (unit fc : Byte) (data : List Byte) (h : slaveSupports fc = false) :
    slaveInstr ⟨unit, fc, data⟩ = .slvUnsupportedFunction unit fc data := by
  simp only [slaveSupports, Bool.or_eq_false_iff, beq_eq_false_iff_ne] at h
  obtain ⟨⟨⟨h03, h04⟩, h06⟩, h10⟩ := h
  rw [slaveInstr_eq_ite, if_neg h03, if_neg h04, if_neg h06, if_neg h10]

/-- A function code with bit 7 clear comes back from its exception form (30_encoding.md R92). -/
theorem exceptionCode_and_7F (fc : Byte) (h : fc.getLsbD 7 = false) : (fc ||| 0x80#8) &&& 0x7F#8 = fc := by
  revert fc; decide

theorem reads_slaveRow (unit fc : Byte) (data : List Byte) :
    Reads (decodeOperands fc spaceSlaveExecutes) (encByte unit ++ encBytes data) (slaveInstr ⟨unit, fc, data⟩) :=
  reads_map2 (fun unit data => slaveInstr ⟨unit, fc, data⟩) (reads_byte unit) (reads_bytes data)

theorem reads_slvUnsupportedFunction (unit fc : Byte) (data : List Byte) (h : slaveSupports fc = false) :
    Reads (decodeOperands fc spaceSlaveExecutes) (encByte unit ++ encBytes data) (.slvUnsupportedFunction unit fc data) :=
  slaveInstr_of_unsupported unit fc data h ▸ reads_slaveRow unit fc data

theorem reads_exceptionResponseBuild (fc : Byte) (code : ExceptionCode) :
    Reads (decodeOperands (fc ||| 0x80#8) spaceSlaveSends) (encByte fc ++ encExceptionCode code)
      (.exceptionResponseBuild fc code) := by
  refine reads_bind (reads_byte fc) ?_
  rw [if_pos rfl]
  exact reads_map1 _ (reads_exceptionCode code)

theorem reads_exceptionResponseDecode (link : Link) (fc code : Byte) (h : fc.getLsbD 7 = false) :
    Reads (decodeOperands (fc ||| 0x80#8) spaceMastersDecode) (encLink link ++ encByte code)
      (.exceptionResponseDecode link fc code) := by
  have hbit : exceptionBit (fc ||| 0x80#8) = true := by simp [exceptionBit]
  simpa [decodeOperands, spaceMastersDecode, hbit, exceptionCode_and_7F fc h] using
    reads_map2 (Instr.exceptionResponseDecode · fc ·) (reads_link link) (reads_byte code)

/-- The operands of every well-formed operation, row by row: rows with the same operands share one reader lemma. -/
theorem reads_encodeOperands (i : Instr) (h : i.wf = true) :
    Reads (decodeOperands i.opcode i.space) (encodeOperands i) i :=
  match i with
  | .slvReadHoldingRegisters unit data => reads_slaveRow unit 0x03#8 data
  | .slvReadInputRegisters unit data => reads_slaveRow unit 0x04#8 data
  | .slvWriteSingleRegister unit data => reads_slaveRow unit 0x06#8 data
  | .slvWriteMultipleRegisters unit data => reads_slaveRow unit 0x10#8 data
  | .slvUnsupportedFunction unit fc data =>
    reads_slvUnsupportedFunction unit fc data (by simpa [Instr.wf] using h)
  | .exceptionResponseBuild fc code => reads_exceptionResponseBuild fc code
  | .exceptionResponseDecode link fc code => reads_exceptionResponseDecode link fc code (by simpa [Instr.wf] using h)
  | .rtuReadCoils m | .rtuReadDiscreteInputs m | .rtuReadHoldingRegisters m | .rtuReadInputRegisters m =>
    reads_map1 _ (reads_rtuMsg reads_readReq m)
  | .rtuWriteSingleCoil m => reads_map1 _ (reads_rtuMsg reads_coilReq m)
  | .rtuWriteSingleRegister m => reads_map1 _ (reads_rtuMsg reads_regReq m)
  | .rtuWriteMultipleCoils m => reads_map1 _ (reads_rtuMsg reads_coilsReq m)
  | .rtuWriteMultipleRegisters m => reads_map1 _ (reads_rtuMsg reads_regsReq m)
  | .tcpReadCoils m | .tcpReadDiscreteInputs m | .tcpReadHoldingRegisters m | .tcpReadInputRegisters m =>
    reads_map1 _ (reads_tcpMsg reads_readReq m)
  | .tcpWriteSingleCoil m => reads_map1 _ (reads_tcpMsg reads_coilReq m)
  | .tcpWriteSingleRegister m => reads_map1 _ (reads_tcpMsg reads_regReq m)
  | .tcpWriteMultipleCoils m => reads_map1 _ (reads_tcpMsg reads_coilsReq m)
  | .tcpWriteMultipleRegisters m => reads_map1 _ (reads_tcpMsg reads_regsReq m)
  | .crcInit | .crcRead | .canStart | .canStop | .canReadFrame | .canReadAllFrames | .canBufferedCount | .canReceivedCount
  | .canDroppedCount | .tmDisconnect | .canThreadStep | .canNormalDrain | .slSlaveRx | .slGapFire | .rmMasterPoll
  | .tmTcpPoll | .tmTcpPeerClose => reads_pure _
  | .crcByte b => reads_map1 _ (reads_byte b)
  | .crc16 bytes => reads_map1 _ (reads_bytes bytes)
  | .bsOpen c config draw => reads_map3 _ (reads_chan c) (reads_serialCfg config) (reads_openDraw draw)
  | .bsClose c | .bsReadAvailable c | .bsReadLine c | .bsBytesAvailable c => reads_map1 _ (reads_chan c)
  | .bsWrite c bytes => reads_map2 _ (reads_chan c) (reads_bytes bytes)
  | .bsWaitReady c timeout => reads_map2 _ (reads_chan c) (reads_nat timeout)
  | .slGetHoldingRegister addr | .slGetInputRegister addr => reads_map1 _ (reads_nat addr)
  | .rmReadCoils start count | .rmReadDiscreteInputs start count | .rmReadHoldingRegisters start count
  | .rmReadInputRegisters start count | .tmReadCoils start count | .tmReadDiscreteInputs start count
  | .tmReadHoldingRegisters start count | .tmReadInputRegisters start count =>
    reads_map2 _ (reads_nat start) (reads_nat count)
  | .rmWriteSingleCoil addr on | .tmWriteSingleCoil addr on => reads_map2 _ (reads_nat addr) (reads_bool on)
  | .slSetHoldingRegister addr value | .slSetInputRegister addr value | .rmWriteSingleRegister addr value
  | .tmWriteSingleRegister addr value => reads_map2 _ (reads_nat addr) (reads_word value)
  | .rmWriteMultipleCoils start values | .tmWriteMultipleCoils start values =>
    reads_map2 _ (reads_nat start) (reads_bools values)
  | .rmWriteMultipleRegisters start values | .tmWriteMultipleRegisters start values =>
    reads_map2 _ (reads_nat start) (reads_words values)
  | .tmConnect ok => reads_map1 _ (reads_bool ok)
  | .tick dt => reads_map1 _ (reads_pos dt (of_decide_eq_true h))
  | .bsRxBytes c bytes => reads_map2 _ (reads_chan c) (reads_bytes1 bytes (by simpa [Instr.wf] using h))
  | .bsTxDrain c k => reads_map2 _ (reads_chan c) (reads_pos k (of_decide_eq_true h))
  | .bsChanError c kind => reads_map2 _ (reads_chan c) (reads_deviceError kind)
  | .canArrive f => reads_map1 _ (reads_canFrame f h)
  | .tmTcpRx bytes => reads_map1 _ (reads_bytes1 bytes (by simpa [Instr.wf] using h))

/-- A record whose operands are read in full decodes, with zero bytes after it. -/
theorem decode_of_reads {op space : Byte} {operands : List Byte} {i : Instr} (n : Nat)
    (h : Reads (decodeOperands op space) operands i) :
    decode (op :: space :: operands ++ List.replicate n 0#8) = .ok i := by
  have hzeros : (List.replicate n 0#8).all (· == 0#8) = true := by simp
  simp only [List.cons_append, decode, h (List.replicate n 0#8), hzeros, if_true]

end Sys2Proof

/-- Settles O1: the reader that the opcode and space bytes select reads the operands back, and only zeros are left. -/
theorem decodeInvertsEncode : Obligations.DecodeInvertsEncode :=
  fun i n hwf => decode_of_reads n (reads_encodeOperands i hwf)
end

section
/-! The slave's wire codec (30_encoding.md R90, R98). -/
open Sys2Proof

namespace Sys2Proof

theorem slaveDecode_rtuFrame (unit fc : Byte) (data : List Byte) :
    slaveDecode (rtuFrame unit fc data) = some (slaveInstr ⟨unit, fc, data⟩) := by
  simp only [slaveDecode, rtuOpen_rtuFrame]

/-- A frame that decodes is the frame of format RTU of some fields, and decodes to their operation. -/
theorem rtuFrame_of_slaveDecode {frame : List Byte} {i : Instr} (h : slaveDecode frame = some i) :
    ∃ p : RtuPdu, frame = rtuFrame p.unit p.fc p.data ∧ i = slaveInstr p := by
  unfold slaveDecode at h
  split at h
  · exact ⟨_, eq_rtuFrame_of_rtuOpen frame _ ‹_›, (Option.some.inj h).symm⟩
  · cases h

/-- Every function code gives a well-formed operation (30_encoding.md R113), and its frame is that of the fields. -/
theorem slaveInstr_wf_encode (p : RtuPdu) :
    (slaveInstr p).wf = true ∧ slaveEncode (slaveInstr p) = some (rtuFrame p.unit p.fc p.data) := by
  obtain ⟨unit, fc, data⟩ := p
  rw [slaveInstr_eq_ite]
  split_ifs with h03 h04 h06 h10
  case neg => exact ⟨by simp [Instr.wf, slaveSupports, h03, h04, h06, h10], rfl⟩
  all_goals subst fc; exact ⟨rfl, rfl⟩

end Sys2Proof

/-- Settles O2: a sealed frame opens to its fields, and only sealed frames open. -/
theorem slaveWireCodecAgrees : Obligations.SlaveWireCodecAgrees := by
  refine ⟨fun unit fc data => ?sealed, fun frame i h => ?decoded⟩
  case sealed => exact (slaveDecode_rtuFrame unit fc data).trans (congrArg some (slaveInstr_eq_ite unit fc data))
  case decoded =>
    obtain ⟨p, rfl, rfl⟩ := rtuFrame_of_slaveDecode h
    exact slaveInstr_wf_encode p

/-- Settles O3: the assigned records are encodings, an index without a row is refused, and the frames' CRCs are computed. -/
theorem knownWordsDecode : Obligations.KnownWordsDecode :=
  ⟨decodeInvertsEncode .crcInit 0 rfl, decodeInvertsEncode (.slGetHoldingRegister 5) 0 rfl,
    decodeInvertsEncode (.rmReadHoldingRegisters 0 10) 0 rfl, decodeInvertsEncode .slGapFire 0 rfl, rfl, by decide +kernel⟩
end

section
/-! Bit and register data blocks (30_encoding.md R100, R101). -/
open Sys2Proof

namespace Sys2Proof

/-- After `n` of the eight places the accumulator of `packByte` holds the first `n` bits. -/
theorem getLsbD_packByte_foldl (f : Nat → Bool) (n k : Nat) (hn : n ≤ 8) :
    ((List.range n).foldl (fun acc k => if f k then acc ||| (1#8 <<< k) else acc) 0#8).getLsbD k =
      (decide (k < n) && f k) := by
  induction n with
  | zero => simp
  | succ n ih =>
    have hplace : (1#8 <<< n).getLsbD k = decide (k = n) := by
      rw [← BitVec.twoPow_eq, BitVec.getLsbD_twoPow, decide_eq_true (show n < 8 by omega), Bool.true_and,
        decide_eq_decide, eq_comm]
    rw [List.range_succ, List.foldl_append, List.foldl_cons, List.foldl_nil]
    by_cases hbit : f n
    · rw [if_pos hbit, BitVec.getLsbD_or, ih (by omega), hplace]
      grind
    · rw [if_neg hbit, ih (by omega)]
      grind

theorem getLsbD_packByte (f : Nat → Bool) (k : Nat) (hk : k < 8) : (packByte f).getLsbD k = f k := by
  rw [packByte, getLsbD_packByte_foldl f 8 k (Nat.le_refl 8), decide_eq_true hk, Bool.true_and]

@[simp] theorem length_packBits (values : List Bool) : (packBits values).length = (values.length + 7) / 8 := by
  simp [packBits, bitBytes]

/-- Value `i` is bit `i mod 8` of byte `i div 8`; past the last value the bits are 0. -/
theorem getLsbD_packBits (values : List Bool) (i : Nat) (h : i < 8 * ((values.length + 7) / 8)) :
    ((packBits values).getD (i / 8) 0#8).getLsbD (i % 8) = values.getD i false := by
  have hbyte : i / 8 < bitBytes values.length := by rw [bitBytes]; omega
  have hget : (packBits values).getD (i / 8) 0#8 = packByte fun k => values.getD (8 * (i / 8) + k) false := by
    simp [packBits, List.getD_eq_getElem?_getD, hbyte]
  rw [hget, getLsbD_packByte _ _ (Nat.mod_lt i (by decide)), Nat.div_add_mod]

theorem unpackBits_packBits (values : List Bool) : unpackBits values.length (packBits values) = values := by
  refine List.ext_getElem (by simp [unpackBits]) fun i hi hi' => ?_
  have hbit := getLsbD_packBits values i (by omega)
  rw [List.getD_eq_getElem _ _ hi'] at hbit
  simpa [unpackBits] using hbit

theorem bytesToWords_wordsToBytes (vs : List Word) : bytesToWords (wordsToBytes vs) = vs := by
  induction vs with
  | nil => rfl
  | cons v vs ih => rw [wordsToBytes, bytesToWords, be16_hi8_lo8, ih]

end Sys2Proof

/-- Settles O39: every bit has its place, which gives the values back; a register is its two halves. -/
theorem dataBlocksRoundTrip : Obligations.DataBlocksRoundTrip :=
  ⟨unpackBits_packBits, length_packBits, getLsbD_packBits,
    fun vs => ⟨bytesToWords_wordsToBytes vs, (flatMap_encWord vs).symm⟩⟩
end

section
/-! The CRC as arithmetic on the accumulator (40_crc16.md R131, R133, R136): the round is a bijection and additive under
exclusive or, and with it the byte step. -/
open Sys2Proof

namespace Sys2Proof

/-- Bit 15 of 0xA001 is 1, and a logical shift clears bit 15. -/
theorem getLsbD_15_crcRound (acc : Word) : (crcRound acc).getLsbD 15 = acc.getLsbD 0 := by
  unfold crcRound
  split
  case isTrue h => simp [h]
  case isFalse h => simpa using h

theorem crcRound_injective : Function.Injective crcRound := by
  intro a b h
  have hbit : a.getLsbD 0 = b.getLsbD 0 := by rw [← getLsbD_15_crcRound, h, getLsbD_15_crcRound]
  have hshift : a >>> 1 = b >>> 1 := by
    unfold crcRound at h
    rw [hbit] at h
    split at h
    · exact (BitVec.xor_left_inj _).1 h
    · exact h
  refine BitVec.eq_of_getLsbD_eq fun i _ => ?_
  cases i with
  | zero => exact hbit
  | succ i => simpa [Nat.add_comm] using congrArg (·.getLsbD i) hshift

theorem crcRound_bijective : Function.Bijective crcRound := crcRound_injective.bijective_of_finite

theorem crcRounds_eq_iterate (n : Nat) : crcRounds n = crcRound^[n] := by
  induction n with
  | zero => rfl
  | succ n ih => rw [Function.iterate_succ, ← ih]; rfl

theorem crcRounds_bijective (n : Nat) : Function.Bijective (crcRounds n) :=
  crcRounds_eq_iterate n ▸ crcRound_bijective.iterate n

theorem crcUpdate_bijective (b : Byte) : Function.Bijective fun acc => crcUpdate acc b :=
  have hxor : Function.Involutive fun acc : Word => acc ^^^ b.setWidth 16 := fun acc => by simp
  (crcRounds_bijective 8).comp hxor.bijective

/-- Different bytes leave different accumulators. -/
theorem crcUpdate_injective_byte (acc : Word) : Function.Injective (crcUpdate acc) := by
  intro b c h
  have hwide : b.setWidth 16 = c.setWidth 16 := (BitVec.xor_right_inj acc).1 ((crcRounds_bijective 8).injective h)
  simpa using congrArg (BitVec.setWidth 8) hwide

theorem crcRound_xor (a b : Word) : crcRound (a ^^^ b) = crcRound a ^^^ crcRound b := by
  unfold crcRound
  rw [BitVec.getLsbD_xor, BitVec.ushiftRight_xor_distrib]
  cases a.getLsbD 0 <;> cases b.getLsbD 0
  case false.false => rfl
  case false.true => exact BitVec.xor_assoc ..
  case true.false =>
    show a >>> 1 ^^^ b >>> 1 ^^^ 0xA001#16 = a >>> 1 ^^^ 0xA001#16 ^^^ b >>> 1
    ac_rfl
  case true.true =>
    calc a >>> 1 ^^^ b >>> 1 = a >>> 1 ^^^ b >>> 1 ^^^ (0xA001#16 ^^^ 0xA001#16) := by rw [BitVec.xor_self, BitVec.xor_zero]
      _ = a >>> 1 ^^^ 0xA001#16 ^^^ (b >>> 1 ^^^ 0xA001#16) := by ac_rfl

theorem crcRounds_xor (n : Nat) (a b : Word) : crcRounds n (a ^^^ b) = crcRounds n a ^^^ crcRounds n b := by
  induction n generalizing a b with
  | zero => rfl
  | succ n ih => rw [crcRounds, crcRound_xor, ih]; rfl

/-- While the bits tested are 0, rounds only shift. -/
theorem crcRounds_eq_ushiftRight (n : Nat) (acc : Word) (h : ∀ i < n, acc.getLsbD i = false) :
    crcRounds n acc = acc >>> n := by
  induction n generalizing acc with
  | zero => exact (BitVec.ushiftRight_zero acc).symm
  | succ n ih =>
    have hround : crcRound acc = acc >>> 1 := by rw [crcRound, h 0 n.succ_pos, if_neg Bool.false_ne_true]
    have hrest : ∀ i < n, (acc >>> 1).getLsbD i = false := fun i hi => by
      rw [BitVec.getLsbD_ushiftRight]
      exact h (1 + i) (by omega)
    rw [crcRounds, hround, ih _ hrest, ← BitVec.shiftRight_add, Nat.add_comm]

end Sys2Proof

/-- Settles O9: bit 15 after a round tells whether 0xA001 was applied, so the round can be undone; the byte step is an
exclusive or followed by eight rounds. -/
theorem crcStepIsABijection : Obligations.CrcStepIsABijection :=
  ⟨getLsbD_15_crcRound, crcRound_bijective, crcUpdate_bijective⟩
end

section
/-! The bit-serial form and the table form of the byte step (40_crc16.md R138). -/
open Sys2Proof

namespace Sys2Proof

/-- One round of the bit-serial form (R138 (a)): bit `i` of the byte is fed in as it is reached. -/
def crcSerialRound (b : Byte) (acc : Word) (i : Nat) : Word :=
  if acc.getLsbD 0 ^^ b.getLsbD i then (acc >>> 1) ^^^ 0xA001#16 else acc >>> 1

/-- A round of the byte step is the bit-serial round, with the rest of the byte still in the accumulator. -/
theorem crcRound_xor_byte (b : Byte) (acc : Word) (i : Nat) :
    crcRound (acc ^^^ b.setWidth 16 >>> i) = crcSerialRound b acc i ^^^ b.setWidth 16 >>> (i + 1) := by
  have hbit : (acc ^^^ b.setWidth 16 >>> i).getLsbD 0 = (acc.getLsbD 0 ^^ b.getLsbD i) := by
    have hbyte : b.getLsbD i = true → i < 16 := fun h => (BitVec.lt_of_getLsbD h).trans (by decide)
    simpa using hbyte
  rw [crcRound, crcSerialRound, hbit, BitVec.ushiftRight_xor_distrib, ← BitVec.shiftRight_add]
  split
  · rw [BitVec.xor_assoc, BitVec.xor_assoc, BitVec.xor_comm (b.setWidth 16 >>> (i + 1))]
  · rfl

/-- After `n` bit-serial rounds the accumulator lacks only the bits of the byte that have not been reached. -/
theorem foldl_crcSerialRound_xor (b : Byte) (acc : Word) (n : Nat) :
    (List.range n).foldl (crcSerialRound b) acc ^^^ b.setWidth 16 >>> n = crcRounds n (acc ^^^ b.setWidth 16) := by
  induction n with
  | zero => simp [crcRounds]
  | succ n ih =>
    rw [List.range_succ, List.foldl_append, List.foldl_cons, List.foldl_nil, ← crcRound_xor_byte, ih,
      crcRounds_eq_iterate, crcRounds_eq_iterate, Function.iterate_succ_apply']

theorem setWidth_ushiftRight_8 (b : Byte) : b.setWidth 16 >>> 8 = 0#16 := by
  refine BitVec.eq_of_getLsbD_eq fun i _ => ?_
  rw [BitVec.getLsbD_ushiftRight, BitVec.getLsbD_setWidth, BitVec.getLsbD_of_ge b (8 + i) (Nat.le_add_right 8 i),
    Bool.and_false, BitVec.getLsbD_zero]

theorem foldl_crcSerialRound (b : Byte) (acc : Word) :
    (List.range 8).foldl (crcSerialRound b) acc = crcUpdate acc b := by
  rw [crcUpdate, ← foldl_crcSerialRound_xor, setWidth_ushiftRight_8, BitVec.xor_zero]

theorem getLsbD_and_255 (v : Word) (i : Nat) : (v &&& 0x00FF#16).getLsbD i = (v.getLsbD i && decide (i < 8)) := by
  rw [BitVec.getLsbD_and, BitVec.getLsbD_ofNat, show 0x00FF = 2 ^ 8 - 1 from rfl, Nat.testBit_two_pow_sub_one]
  by_cases hi : i < 8
  · simp [hi, show i < 16 by omega]
  · simp [hi]

/-- The table form (R138 (b)): the high half only shifts, and the low half is the table's index. -/
theorem crcUpdate_eq_table (acc : Word) (b : Byte) :
    crcUpdate acc b = (acc >>> 8) ^^^ crcRounds 8 ((acc ^^^ b.setWidth 16) &&& 0x00FF#16) := by
  rw [crcUpdate]
  generalize hv : acc ^^^ b.setWidth 16 = v
  have hclear : ∀ i < 8, (v ^^^ (v &&& 0x00FF#16)).getLsbD i = false := fun i hi => by
    rw [BitVec.getLsbD_xor, getLsbD_and_255, decide_eq_true hi, Bool.and_true, Bool.xor_self]
  have hlow : (v &&& 0x00FF#16) >>> 8 = 0#16 := BitVec.eq_of_getLsbD_eq fun i _ => by
    rw [BitVec.getLsbD_ushiftRight, getLsbD_and_255, decide_eq_false (by omega), Bool.and_false, BitVec.getLsbD_zero]
  calc crcRounds 8 v = crcRounds 8 (v ^^^ (v &&& 0x00FF#16)) ^^^ crcRounds 8 (v &&& 0x00FF#16) := by
        rw [← crcRounds_xor, BitVec.xor_assoc, BitVec.xor_self, BitVec.xor_zero]
    _ = acc >>> 8 ^^^ crcRounds 8 (v &&& 0x00FF#16) := by
        rw [crcRounds_eq_ushiftRight 8 _ hclear, BitVec.ushiftRight_xor_distrib, hlow, ← hv,
          BitVec.ushiftRight_xor_distrib, setWidth_ushiftRight_8, BitVec.xor_zero, BitVec.xor_zero]

end Sys2Proof

/-- Settles O11: the bit-serial accumulator lacks the bits of the byte not yet reached, and after eight there are none; the
table form takes the two halves apart, the round being additive. -/
theorem crcEquivalentForms : Obligations.CrcEquivalentForms :=
  ⟨fun acc b => foldl_crcSerialRound b acc, crcUpdate_eq_table, rfl, rfl, rfl, rfl, rfl⟩
end

section
/-! The residue of a sequence that ends in its own CRC, and the errors it detects (40_crc16.md R137, R139). -/
open Sys2Proof Sys2Proof.Claims

namespace Sys2Proof

theorem crc16_append (a b : List Byte) : crc16 (a ++ b) = b.foldl crcUpdate (crc16 a) := List.foldl_append

/-- The low half cancels, so the rounds only shift the high half down. -/
theorem crcUpdate_lo8 (acc : Word) : crcUpdate acc (lo8 acc) = (hi8 acc).setWidth 16 := by
  have hclear : ∀ i < 8, (acc ^^^ (lo8 acc).setWidth 16).getLsbD i = false := fun i hi => by
    simp [lo8, hi, show i < 16 by omega]
  rw [crcUpdate, crcRounds_eq_ushiftRight 8 _ hclear, BitVec.ushiftRight_xor_distrib, setWidth_ushiftRight_8,
    BitVec.xor_zero]
  refine BitVec.eq_of_getLsbD_eq fun i hi => ?_
  have hbit : acc.getLsbD (8 + i) = true → i < 8 := fun h => Nat.lt_of_add_lt_add_left (BitVec.lt_of_getLsbD h)
  simpa [hi8, hi] using hbit

/-- The accumulator's own two bytes, low byte first, take it to 0. -/
theorem crcUpdate_lo8_hi8 (acc : Word) : crcUpdate (crcUpdate acc (lo8 acc)) (hi8 acc) = 0#16 := by
  rw [crcUpdate_lo8, crcUpdate, BitVec.xor_self]
  rfl

/-- For given trailer bytes exactly one accumulator leads to 0 (R137). -/
theorem crcUpdate_trailer_eq_zero (acc : Word) (lo hi : Byte) :
    crcUpdate (crcUpdate acc lo) hi = 0#16 ↔ acc = be16 hi lo := by
  have hzero := crcUpdate_lo8_hi8 (be16 hi lo)
  rw [lo8_be16, hi8_be16] at hzero
  constructor
  · intro h
    exact (crcUpdate_bijective lo).injective ((crcUpdate_bijective hi).injective (h.trans hzero.symm))
  · rintro rfl
    exact hzero

theorem crc16_sealFrame (body : List Byte) : crc16 (sealFrame body) = 0#16 := by
  rw [sealFrame, crc16_append]
  exact crcUpdate_lo8_hi8 (crc16 body)

theorem rtuCrcOk_iff_crc16_eq_zero (frame : List Byte) (h : 2 ≤ frame.length) :
    rtuCrcOk frame = true ↔ crc16 frame = 0#16 := by
  rw [rtuCrcOk, beq_iff_eq, ← crcUpdate_trailer_eq_zero]
  conv_rhs => rw [frame_split frame h, crc16_append]
  rfl

/-- Accumulators that differ stay different. -/
theorem foldl_crcUpdate_injective (bytes : List Byte) : Function.Injective fun acc => bytes.foldl crcUpdate acc := by
  induction bytes with
  | nil => exact Function.injective_id
  | cons b bytes ih => exact ih.comp (crcUpdate_bijective b).injective

/-- One changed byte changes the CRC. -/
theorem foldl_crcUpdate_set_ne (bytes : List Byte) (i : Nat) (b : Byte) (acc : Word) (hi : i < bytes.length)
    (hb : b ≠ bytes.getD i 0#8) : (bytes.set i b).foldl crcUpdate acc ≠ bytes.foldl crcUpdate acc := by
  induction bytes generalizing i acc with
  | nil => cases hi
  | cons c bytes ih =>
    cases i with
    | zero => exact fun h => hb (crcUpdate_injective_byte acc (foldl_crcUpdate_injective bytes h))
    | succ i => exact ih i (crcUpdate acc c) (Nat.lt_of_succ_lt_succ hi) hb

theorem xor_bit_ne (b : Byte) (k : Nat) (hk : k < 8) : b ^^^ (1#8 <<< k) ≠ b := by
  intro h
  have hbit : (b ^^^ (1#8 <<< k)).getLsbD k = b.getLsbD k := by rw [h]
  simp [hk] at hbit

end Sys2Proof

/-- Settles O10: for given trailer bytes one accumulator leads to 0, their own word; and a changed byte changes the
accumulator, which the later bytes carry to the end as they are bijections of it. -/
theorem crcResidueDetectsErrors : Obligations.CrcResidueDetectsErrors := by
  refine ⟨crc16_sealFrame, by decide +kernel, fun frame h => ?trailer, fun body i k hi hk hzero => ?singleBit,
    by decide +kernel, by decide +kernel⟩
  case trailer => rw [← rtuCrcOk_iff, rtuCrcOk_iff_crc16_eq_zero frame h]
  case singleBit =>
    exact foldl_crcUpdate_set_ne _ i _ _ hi (xor_bit_ne _ k hk) (hzero.trans (crc16_sealFrame body).symm)
end

section
/-! The operations of the CRC16 unit (40_crc16.md R131 to R135). -/
open Sys2Proof Sys2Proof.Machine Sys2Proof.Claims

namespace Sys2Proof.Machine

theorem traced_nil (s : State) (results : List Return) :
    traced s [] results = { s with returns := s.returns ++ results } := by
  rw [traced, List.append_nil]

theorem exec_crcInit (s : State) :
    exec .crcInit s = .next (traced { s with crcAcc := 0xFFFF#16 } [] [returned .crc 0x00#8 .void]) := by
  rw [traced_nil]; rfl

theorem exec_crcByte (b : Byte) (s : State) :
    exec (.crcByte b) s = .next (traced { s with crcAcc := crcUpdate s.crcAcc b } [] [returned .crc 0x01#8 .void]) := by
  rw [traced_nil]; rfl

theorem exec_crcRead (s : State) :
    exec .crcRead s = .next (traced s [] [returned .crc 0x02#8 (.u16 s.crcAcc)]) := by
  rw [traced_nil]; rfl

theorem exec_crc16 (bytes : List Byte) (s : State) :
    exec (.crc16 bytes) s = .next (traced s [] [returned .crc 0x03#8 (.u16 (crc16 bytes))]) := by
  rw [traced_nil]; rfl

theorem execAll_cons {i : Instr} {s t : State} (rest : List Instr) (h : exec i s = .next t) :
    execAll (i :: rest) s = execAll rest t := by
  rw [execAll, h]

/-- `CRC_BYTE` over `bytes`, whatever follows. -/
theorem execAll_crcBytes (bytes : List Byte) (rest : List Instr) (s : State) :
    execAll (bytes.map .crcByte ++ rest) s =
      execAll rest (traced { s with crcAcc := bytes.foldl crcUpdate s.crcAcc } []
        (List.replicate bytes.length (returned .crc 0x01#8 .void))) := by
  induction bytes generalizing s with
  | nil => simp [traced]
  | cons b bytes ih =>
    rw [List.map_cons, List.cons_append, execAll_cons _ (exec_crcByte b s), ih]
    simp [traced, List.replicate_succ]

end Sys2Proof.Machine

/-- Settles O7: each operation's meaning, the eight rounds as an iteration. -/
theorem crcUnitOperations : Obligations.CrcUnitOperations :=
  fun s b bytes => ⟨exec_crcInit s, exec_crcByte b s, exec_crcRead s, exec_crc16 bytes s⟩

/-- Settles O8: `CRC_BYTE` over a sequence folds the byte step over it, from 0xFFFF as from any accumulator. -/
theorem crcStreamingAgreesWithFunction : Obligations.CrcStreamingAgreesWithFunction := by
  refine ⟨fun bytes s => ?stream, fun a b s t hacc h => ?continued⟩
  case stream =>
    rw [execAll_cons _ (exec_crcInit s), execAll_crcBytes, execAll_cons _ (exec_crcRead _)]
    simp [execAll, traced, crc16]
  case continued =>
    have hbytes := execAll_crcBytes b [] s
    rw [List.append_nil, h, execAll] at hbytes
    rw [Host.Outcome.next.inj hbytes, crc16_append, ← hacc]
    rfl
end

section
/-! The byte-stream operations (41_bytestream.md), one rule per operation and case, each next state written with `traced`. -/
open Sys2Proof Sys2Proof.Machine Sys2Proof.Claims

namespace Sys2Proof.Machine

theorem Channel.isOpen_iff (ch : Channel) : ch.isOpen = true ↔ ch.state = .opened := by
  simp [Channel.isOpen]

theorem Channel.isOpen_eq_false_iff (ch : Channel) : ch.isOpen = false ↔ ch.state ≠ .opened := by
  simp [Channel.isOpen]

/-- The legal configurations in the words of R152 are those the model accepts. -/
theorem serialLegal_iff (config : SerialCfg) : serialLegal config ↔ legalSerialCfg config = true := by
  have hparity : (config.parity = .none ∨ config.parity = .even ∨ config.parity = .odd) ↔ config.parity ≠ .illegal := by
    cases config.parity <;> simp
  simp [serialLegal, legalSerialCfg, hparity, and_assoc, or_assoc]

/-! Notifications and results, as `traced` collects them. -/

theorem State.notify_eq_traced (s : State) (src : Source) (n : Notice) : s.notify src n = traced s [⟨src, n⟩] [] := by
  rw [traced, List.append_nil]
  rfl

theorem State.ret_eq_traced (s : State) (src : Source) (index : Byte) (r : Result) :
    s.ret src index r = traced s [] [returned src index r] :=
  (traced_nil s _).symm

theorem traced_traced (s : State) (notes notes' : List Notification) (results results' : List Return) :
    traced (traced s notes results) notes' results' = traced s (notes ++ notes') (results ++ results') := by
  simp only [traced, List.append_assoc]

/-! Opening and closing (R152, R153). -/

section
variable {s : State} {c : Chan} {config : SerialCfg} {draw : OpenDraw}

theorem exec_bsOpen_of_open (hopen : (s.chan c).state = .opened) :
    exec (.bsOpen c config draw) s = .next (traced s [] [returned (.chan c) 0x10#8 (.bool false)]) := by
  simp only [exec, execBsOpen, (Channel.isOpen_iff _).2 hopen, if_true, State.ret_eq_traced]

theorem exec_bsOpen_of_illegal (hopen : (s.chan c).state ≠ .opened) (hillegal : ¬ serialLegal config) :
    exec (.bsOpen c config draw) s =
      .next (traced s [⟨.chan c, .error .configurationError⟩] [returned (.chan c) 0x10#8 (.bool false)]) := by
  rw [← Channel.isOpen_eq_false_iff] at hopen
  rw [serialLegal_iff] at hillegal
  simp [exec, execBsOpen, hopen, hillegal, State.notify_eq_traced, State.ret_eq_traced, traced_traced]

theorem exec_bsOpen_of_ok (hopen : (s.chan c).state ≠ .opened) (hlegal : serialLegal config) :
    exec (.bsOpen c config .ok) s = .next
      (traced (s.setChan c { emptied (s.chan c) .opened with cfg := config }) [⟨.chan c, .connected⟩]
        [returned (.chan c) 0x10#8 (.bool true)]) := by
  rw [← Channel.isOpen_eq_false_iff] at hopen
  rw [serialLegal_iff] at hlegal
  simp [exec, execBsOpen, hopen, hlegal, openError, Channel.openWith, emptied, State.notify_eq_traced,
    State.ret_eq_traced, traced_traced]

theorem exec_bsOpen_of_error {kind : ErrorKind} (hopen : (s.chan c).state ≠ .opened) (hlegal : serialLegal config)
    (hdraw : openError draw = some kind) :
    exec (.bsOpen c config draw) s = .next
      (traced (s.setChan c { s.chan c with state := .errored }) [⟨.chan c, .error kind⟩]
        [returned (.chan c) 0x10#8 (.bool false)]) := by
  rw [← Channel.isOpen_eq_false_iff] at hopen
  rw [serialLegal_iff] at hlegal
  simp [exec, execBsOpen, hopen, hlegal, hdraw, State.notify_eq_traced, State.ret_eq_traced, traced_traced]

theorem exec_bsClose_of_open (hopen : (s.chan c).state = .opened) :
    exec (.bsClose c) s = .next
      (traced (s.setChan c (emptied (s.chan c) .closed)) [⟨.chan c, .disconnected⟩] [returned (.chan c) 0x11#8 .void]) := by
  rw [← Channel.isOpen_iff] at hopen
  simp [exec, execBsClose, hopen, Channel.shut, emptied, State.notify_eq_traced, State.ret_eq_traced, traced_traced]

theorem exec_bsClose_of_not_open (hopen : (s.chan c).state ≠ .opened) :
    exec (.bsClose c) s = .next
      (traced (s.setChan c (emptied (s.chan c) .closed)) [] [returned (.chan c) 0x11#8 .void]) := by
  rw [← Channel.isOpen_eq_false_iff] at hopen
  simp [exec, execBsClose, hopen, Channel.shut, emptied, State.ret_eq_traced]

end

/-! Writing and reading (R160, R164 to R166, R151). -/

/-- A sequence that holds the terminator is cut after the first. -/
theorem splitLine_append (term : Byte) (line rest : List Byte) (hline : term ∉ line) :
    splitLine term (line ++ term :: rest) = some (line ++ [term], rest) := by
  induction line with
  | nil => simp [splitLine]
  | cons b line ih =>
    obtain ⟨hb, hline⟩ := not_or.1 (mt List.mem_cons.2 hline)
    simp [splitLine, Ne.symm hb, ih hline]

theorem splitLine_of_not_mem (term : Byte) (bytes : List Byte) (h : term ∉ bytes) : splitLine term bytes = none := by
  induction bytes with
  | nil => rfl
  | cons b bytes ih =>
    obtain ⟨hb, hbytes⟩ := not_or.1 (mt List.mem_cons.2 h)
    simp [splitLine, Ne.symm hb, ih hbytes]

theorem Channel.available_of_open {ch : Channel} (hopen : ch.state = .opened) : ch.available = ch.rb :=
  if_pos ((Channel.isOpen_iff ch).2 hopen)

theorem Channel.available_of_not_open {ch : Channel} (hopen : ch.state ≠ .opened) : ch.available = [] :=
  if_neg (mt (Channel.isOpen_iff ch).1 hopen)

section
variable {s : State} {c : Chan}

theorem exec_bsWrite_of_open (bytes : List Byte) (hopen : (s.chan c).state = .opened) :
    exec (.bsWrite c bytes) s = .next (traced (s.setChan c { s.chan c with wq := (s.chan c).wq ++ bytes }) []
      [returned (.chan c) 0x12#8 (.count bytes.length)]) := by
  rw [← Channel.isOpen_iff] at hopen
  simp only [exec, execBsWrite, Channel.write, Channel.queuedLength, hopen, if_true, State.ret_eq_traced]

theorem exec_bsWrite_of_not_open (bytes : List Byte) (hopen : (s.chan c).state ≠ .opened) :
    exec (.bsWrite c bytes) s = .next (traced s [] [returned (.chan c) 0x12#8 (.count 0)]) := by
  rw [← Channel.isOpen_eq_false_iff] at hopen
  simp [exec, execBsWrite, Channel.write, Channel.queuedLength, hopen, State.ret_eq_traced]

theorem exec_bsReadAvailable_of_open (hopen : (s.chan c).state = .opened) :
    exec (.bsReadAvailable c) s = .next (traced (s.setChan c { s.chan c with rb := [] }) []
      [returned (.chan c) 0x13#8 (.bytes (s.chan c).rb)]) := by
  have hrb := Channel.available_of_open hopen
  rw [← Channel.isOpen_iff] at hopen
  simp only [exec, execBsReadAvailable, Channel.drained, hopen, if_true, hrb, State.ret_eq_traced]

theorem exec_bsReadAvailable_of_not_open (hopen : (s.chan c).state ≠ .opened) :
    exec (.bsReadAvailable c) s = .next (traced s [] [returned (.chan c) 0x13#8 (.bytes [])]) := by
  have hnone := Channel.available_of_not_open hopen
  rw [← Channel.isOpen_eq_false_iff] at hopen
  simp [exec, execBsReadAvailable, Channel.drained, hopen, hnone, State.ret_eq_traced]

theorem exec_bsBytesAvailable (s : State) (c : Chan) :
    exec (.bsBytesAvailable c) s = .next (traced s []
      [returned (.chan c) 0x15#8 (.count (s.chan c).available.length)]) :=
  congrArg _ (State.ret_eq_traced ..)

theorem exec_bsReadLine_of_line {line rest : List Byte}
    (h : splitLine s.params.lineTerm (s.chan c).available = some (line, rest)) :
    exec (.bsReadLine c) s = .next
      (traced (s.setChan c { s.chan c with rb := rest }) [] [returned (.chan c) 0x14#8 (.bytes line)]) := by
  simp only [exec, execBsReadLine, h, State.ret_eq_traced]

theorem exec_bsReadLine_of_none (h : splitLine s.params.lineTerm (s.chan c).available = none) :
    exec (.bsReadLine c) s = .next (traced s [] [returned (.chan c) 0x14#8 (.bytes [])]) := by
  simp only [exec, execBsReadLine, h, State.ret_eq_traced]

end

/-! `waitReady` at the call (R167). -/

theorem exec_bsWaitReady_of_result {s : State} {c : Chan} {timeout : Nat} {b : Bool}
    (h : waitResult s ⟨c, s.now + timeout⟩ = some b) :
    exec (.bsWaitReady c timeout) s = .next (traced s [] [returned (.chan c) 0x16#8 (.bool b)]) := by
  rw [waitResult_eq_waitOutcome] at h
  simp only [exec, execBsWaitReady, State.callWait, h, State.ret_eq_traced]

theorem exec_bsWaitReady_of_none {s : State} {c : Chan} {timeout : Nat} (h : waitResult s ⟨c, s.now + timeout⟩ = none) :
    exec (.bsWaitReady c timeout) s = .next { s with waits := s.waits ++ [⟨c, s.now + timeout⟩] } := by
  rw [waitResult_eq_waitOutcome] at h
  simp only [exec, execBsWaitReady, State.callWait, h]

/-! The line: arrivals, drains and device errors (R157, R158, R162, R169). -/

/-- `last(n, s)` is what is left after the elements before it. -/
theorem take_append_lastN {α : Type} (n : Nat) (s : List α) : s.take (s.length - n) ++ lastN n s = s :=
  List.take_append_drop _ s

section
variable {s : State} {c : Chan} {bytes : List Byte} {k : Nat}

theorem exec_bsRxBytes_of_fits (hopen : (s.chan c).state = .opened)
    (hcap : ((s.chan c).rb ++ bytes).length ≤ s.params.readCap) :
    exec (.bsRxBytes c bytes) s = .next
      (traced (s.setChan c { s.chan c with rb := (s.chan c).rb ++ bytes }) [⟨.chan c, .dataReceived bytes.length⟩] []) := by
  rw [← Channel.isOpen_iff] at hopen
  simp only [exec, execBsRxBytes, Channel.arrived, hopen, if_true, if_neg (Nat.not_lt.2 hcap), State.notify_eq_traced]

theorem exec_bsRxBytes_of_overflow (hopen : (s.chan c).state = .opened)
    (hcap : s.params.readCap < ((s.chan c).rb ++ bytes).length) :
    exec (.bsRxBytes c bytes) s = .next
      (traced (s.setChan c { s.chan c with rb := lastN (s.params.readCap / 2) ((s.chan c).rb ++ bytes) })
        [⟨.chan c, .readBufferWarning (((s.chan c).rb ++ bytes).length - s.params.readCap / 2)⟩,
          ⟨.chan c, .dataReceived bytes.length⟩] []) := by
  rw [← Channel.isOpen_iff] at hopen
  simp only [exec, execBsRxBytes, Channel.arrived, hopen, if_true, if_pos hcap, State.notify_eq_traced, traced_traced]
  rfl

theorem exec_bsRxBytes_of_not_open (hopen : (s.chan c).state ≠ .opened) : exec (.bsRxBytes c bytes) s = .next s := by
  rw [← Channel.isOpen_eq_false_iff] at hopen
  simp [exec, execBsRxBytes, hopen]

theorem Channel.drainAdmits_iff (ch : Channel) (writeChunk k : Nat) :
    ch.drainAdmits writeChunk k = true ↔ ch.state = .opened ∧ 1 ≤ k ∧ k ≤ writeChunk ∧ k ≤ ch.wq.length := by
  simp [Channel.drainAdmits, Channel.isOpen_iff, and_assoc]

theorem exec_bsTxDrain_of_admitted (h : (s.chan c).drainAdmits s.params.writeChunk k = true) :
    exec (.bsTxDrain c k) s = .next
      (s.setChan c { s.chan c with tx := (s.chan c).tx ++ (s.chan c).wq.take k, wq := (s.chan c).wq.drop k }) := by
  simp only [exec, execBsTxDrain, h, if_true]

theorem exec_bsTxDrain_of_not_admitted (h : ¬ (s.chan c).drainAdmits s.params.writeChunk k = true) :
    exec (.bsTxDrain c k) s = .next s := by
  simp only [exec, execBsTxDrain, if_neg h]

/-- The outstanding request is lost on the channel the RTU master owns only. -/
theorem State.loseRequest_eq_requestLost (s : State) (c : Chan) : s.loseRequest c = requestLost s c := by
  cases c <;> rfl

theorem exec_bsChanError_of_open (kind : DeviceError) (hopen : (s.chan c).state = .opened) :
    exec (.bsChanError c kind) s = .next
      (traced (requestLost (s.setChan c (emptied (s.chan c) .errored)) c)
        [⟨.chan c, .error (deviceError kind)⟩, ⟨.chan c, .disconnected⟩] []) := by
  rw [← Channel.isOpen_iff] at hopen
  simp only [exec, execBsChanError, hopen, if_true, State.notify_eq_traced, traced_traced, State.loseRequest_eq_requestLost]
  rfl

theorem exec_bsChanError_of_not_open (kind : DeviceError) (hopen : (s.chan c).state ≠ .opened) :
    exec (.bsChanError c kind) s = .next s := by
  rw [← Channel.isOpen_eq_false_iff] at hopen
  simp [exec, execBsChanError, hopen]

end

end Sys2Proof.Machine

/-- Settles O12: the rules of `open` and `close`, by the state of the channel, the configuration and the draw. -/
theorem openAndCloseOutcomes : Obligations.OpenAndCloseOutcomes := by
  intro s c config draw
  refine ⟨exec_bsOpen_of_open, exec_bsOpen_of_illegal, fun hopen hlegal => ⟨?ok, ?notFound, ?permission, ?failure⟩,
    exec_bsClose_of_open, exec_bsClose_of_not_open⟩
  case ok => rintro rfl; exact exec_bsOpen_of_ok hopen hlegal
  case notFound => rintro rfl; exact exec_bsOpen_of_error hopen hlegal rfl
  case permission => rintro rfl; exact exec_bsOpen_of_error hopen hlegal rfl
  case failure => rintro rfl; exact exec_bsOpen_of_error hopen hlegal rfl

/-- Settles O13: on an open channel `write` and the reads see the whole queue and buffer, and `readLine` cuts the buffer after
its first terminator. -/
theorem hostMovesBytes : Obligations.HostMovesBytes := by
  intro s c bytes line rest hopen hline
  have havailable := Channel.available_of_open hopen
  refine ⟨exec_bsWrite_of_open bytes hopen, exec_bsReadAvailable_of_open hopen, ?bytesAvailable,
    fun hrb => exec_bsReadLine_of_line ?line, fun hrb => exec_bsReadLine_of_none ?noLine⟩
  case bytesAvailable => rw [exec_bsBytesAvailable, havailable]
  case line => rw [havailable, hrb, splitLine_append _ line rest hline]
  case noLine => rw [havailable, hrb, splitLine_of_not_mem _ line hline]

/-- Settles O14: the call answers what the conditions of R167 say of it at once, and is suspended when they say nothing. -/
theorem waitReadyAtTheCall : Obligations.WaitReadyAtTheCall := by
  intro s c timeout
  refine ⟨fun hopen => exec_bsWaitReady_of_result ?notOpen, fun hopen hrb => exec_bsWaitReady_of_result ?ready,
    fun hopen hrb hzero => exec_bsWaitReady_of_result ?timeout, fun hopen hrb hpos => exec_bsWaitReady_of_none ?waits⟩
  case notOpen => simp [waitResult, hopen]
  case ready => simp [waitResult, hopen, List.length_pos_iff.2 hrb]
  case timeout => simp [waitResult, hopen, hrb, hzero]
  case waits => simp [waitResult, hopen, hrb, hpos.ne']

/-- Settles O15: past the cap, the buffer is what is lost followed by its last `READ_CAP / 2` bytes. -/
theorem arrivalsAppendOrEvict : Obligations.ArrivalsAppendOrEvict := by
  intro s c bytes hopen
  refine ⟨exec_bsRxBytes_of_fits hopen, fun hcap =>
    ⟨_, _, (take_append_lastN (s.params.readCap / 2) _).symm, ?kept, ?run⟩⟩
  case kept => rw [length_lastN]; omega
  case run => rw [exec_bsRxBytes_of_overflow hopen hcap, List.length_take, Nat.min_eq_left (Nat.sub_le _ _)]

/-- Settles O16: the queue is the `k` bytes sent followed by those still queued; a device error is one rule for its four
kinds. -/
theorem theLineTakesBytesOrFails : Obligations.TheLineTakesBytesOrFails := by
  intro s c k
  refine ⟨fun henabled => ⟨_, _, (List.take_append_drop k _).symm, ?length, ?drains⟩, fun hdisabled => ?stays,
    fun hopen => ⟨exec_bsChanError_of_open .readError hopen, exec_bsChanError_of_open .writeError hopen,
      exec_bsChanError_of_open .resourceGone hopen, exec_bsChanError_of_open .timeout hopen⟩⟩
  case length =>
    obtain ⟨-, -, -, hqueued⟩ := henabled
    rw [List.length_take, Nat.min_eq_left hqueued]
  case drains => exact exec_bsTxDrain_of_admitted ((Channel.drainAdmits_iff ..).2 henabled)
  case stays => exact exec_bsTxDrain_of_not_admitted (mt (Channel.drainAdmits_iff ..).1 hdisabled)

/-- Settles O17: such a channel queues nothing and has nothing available, and no event of the line is enabled on it. -/
theorem channelThatIsNotOpen : Obligations.ChannelThatIsNotOpen := by
  intro s c bytes timeout k kind hopen
  have havailable := Channel.available_of_not_open hopen
  refine ⟨exec_bsWrite_of_not_open bytes hopen, exec_bsReadAvailable_of_not_open hopen,
    exec_bsReadLine_of_none ?readLine, ?bytesAvailable, exec_bsWaitReady_of_result ?waitReady,
    exec_bsRxBytes_of_not_open hopen, exec_bsTxDrain_of_not_admitted ?drain, exec_bsChanError_of_not_open kind hopen⟩
  case readLine => rw [havailable, splitLine]
  case bytesAvailable => rw [exec_bsBytesAvailable, havailable, List.length_nil]
  case waitReady => simp [waitResult, hopen]
  case drain => exact fun hadmits => hopen ((Channel.drainAdmits_iff ..).1 hadmits).1
end

section
/-! Which operations move the state of a channel (R154): of those whose part is a channel, or a unit that owns one, only `open`,
`close` and the device error do. -/
open Sys2Proof Sys2Proof.Machine Sys2Proof.Claims

namespace Sys2Proof.Machine

@[simp] theorem Channel.write_state (ch : Channel) (bytes : List Byte) : (ch.write bytes).state = ch.state := by
  unfold Channel.write
  split <;> rfl

@[simp] theorem Channel.drained_state (ch : Channel) : ch.drained.state = ch.state := by
  unfold Channel.drained
  split <;> rfl

/-- A channel changes by its own operations, or by those of the unit that owns it. -/
theorem OnlyChanges.part_of_chan_ne {part : Option Part} {s t : State} {c : Chan} (h : OnlyChanges part s t)
    (hne : t.chan c ≠ s.chan c) :
    part = some (.chan c) ∨ c = .slave ∧ part = some .slave ∨ c = .master ∧ part = some .rtuMaster := by
  cases c
  case host => exact .inl (h.part_of_bs_ne hne)
  case slave =>
    rcases h.part_of_sl_ne (fun hsl => hne (congrArg Slave.bs hsl)) with hpart | hpart
    · exact .inr (.inl ⟨rfl, hpart⟩)
    · exact .inl hpart
  case master =>
    rcases h.part_of_rm_ne (fun hrm => hne (congrArg RtuMaster.bs hrm)) with hpart | hpart
    · exact .inr (.inr ⟨rfl, hpart⟩)
    · exact .inl hpart

/-! The slave's own operations take bytes from its channel and queue bytes on it. -/

theorem SlaveEffect.bs_state {s t : State} (h : SlaveEffect s t) : t.sl.bs.state = s.sl.bs.state := by
  obtain ⟨bank, body, notes, -, rfl⟩ := h
  exact Channel.write_state ..

theorem slaveInstr_bs_state {s t : State} {p : RtuPdu} (h : exec (slaveInstr p) s = .next t) :
    t.sl.bs.state = s.sl.bs.state := by
  rcases slaveInstr_cases h with rfl | ⟨-, rfl⟩
  · rfl
  · exact (slaveRun_effect s p).bs_state

theorem slGapFire_bs_state {s t : State} (h : exec .slGapFire s = .next t) : t.sl.bs.state = s.sl.bs.state := by
  obtain rfl := Host.Outcome.next.inj h
  split
  · unfold State.slaveProcess
    split
    · rfl
    · exact (slaveRun_effect { s with sl := { s.sl with asm := [], gapArmed := false } } _).bs_state
  · rfl

theorem slave_keeps_bs_state {i : Instr} {s t : State} (hpart : changedPart i = some .slave) (h : exec i s = .next t) :
    t.sl.bs.state = s.sl.bs.state := by
  cases i
  case slvReadHoldingRegisters unit data => exact slaveInstr_bs_state (p := ⟨unit, 0x03#8, data⟩) h
  case slvReadInputRegisters unit data => exact slaveInstr_bs_state (p := ⟨unit, 0x04#8, data⟩) h
  case slvWriteSingleRegister unit data => exact slaveInstr_bs_state (p := ⟨unit, 0x06#8, data⟩) h
  case slvWriteMultipleRegisters unit data => exact slaveInstr_bs_state (p := ⟨unit, 0x10#8, data⟩) h
  case slGapFire => exact slGapFire_bs_state h
  case exceptionResponseDecode link fc code => cases link <;> cases hpart
  all_goals obtain rfl := Host.Outcome.next.inj h
  case slvUnsupportedFunction unit fc data =>
    split
    · exact (slaveEffect_raise s unit fc .illegalFunction).bs_state
    · rfl
  case exceptionResponseBuild fc code => exact (slaveEffect_raise s _ fc code).bs_state
  case slSetHoldingRegister | slSetInputRegister => split <;> rfl
  case slSlaveRx =>
    split
    · exact Channel.drained_state _
    · rfl
  all_goals cases hpart

/-! So do the RTU master's, with a send that clears the buffer first. -/

theorem rtuSend_bs_state (s : State) (q : Request) : (s.rtuSend q).rm.bs.state = s.rm.bs.state :=
  Channel.write_state ..

theorem rtuConclude_bs (s : State) (ctx : TransactionContext) (fc : Byte) (data : List Byte) :
    (s.rtuConclude ctx fc data).rm.bs = s.rm.bs := by
  obtain ⟨notes, results, h⟩ := rtuConclude_form s ctx fc data
  rw [h]

theorem rtuCall_bs_state (s : State) (q : Request) : (s.rtuCall q).rm.bs.state = s.rm.bs.state := by
  rcases rtuCall_cases s q with ⟨-, -, -, h⟩ | ⟨-, h⟩ <;> rw [h]
  · exact rtuSend_bs_state s q
  · rfl

theorem rtuWire_bs_state {Req : Type} (s : State) (fc : FunctionCode) (request : Req → Request) (m : RtuMsg Req) :
    (s.rtuWire fc request m).rm.bs.state = s.rm.bs.state := by
  unfold State.rtuWire
  split
  · split
    · rfl
    · exact rtuSend_bs_state ..
  · split
    · split
      · rw [rtuConclude_bs]
      · rfl
    · rfl

theorem rtuException_bs (s : State) (fc code : Byte) : (s.rtuException fc code).rm.bs = s.rm.bs := by
  unfold State.rtuException
  split
  · split
    · rfl
    · exact rtuConclude_bs ..
  · rfl

theorem rmMasterPoll_bs_state {s t : State} (h : exec .rmMasterPoll s = .next t) : t.rm.bs.state = s.rm.bs.state := by
  obtain rfl := Host.Outcome.next.inj h
  split
  · rfl
  · dsimp only
    split
    · rw [rtuConclude_bs]
      exact Channel.drained_state _
    · unfold State.rtuDeadline
      split <;> exact Channel.drained_state _

theorem rtuMaster_keeps_bs_state {i : Instr} {s t : State} (hpart : changedPart i = some .rtuMaster)
    (h : exec i s = .next t) : t.rm.bs.state = s.rm.bs.state := by
  cases i
  case rmMasterPoll => exact rmMasterPoll_bs_state h
  case exceptionResponseDecode link fc code =>
    cases link
    · obtain rfl := Host.Outcome.next.inj h
      exact congrArg Channel.state (rtuException_bs ..)
    · cases hpart
  all_goals obtain rfl := Host.Outcome.next.inj h
  case rtuReadCoils | rtuReadDiscreteInputs | rtuReadHoldingRegisters | rtuReadInputRegisters | rtuWriteSingleCoil |
      rtuWriteSingleRegister | rtuWriteMultipleCoils | rtuWriteMultipleRegisters => exact rtuWire_bs_state ..
  case rmReadCoils | rmReadDiscreteInputs | rmReadHoldingRegisters | rmReadInputRegisters | rmWriteSingleCoil |
      rmWriteSingleRegister | rmWriteMultipleCoils | rmWriteMultipleRegisters => exact rtuCall_bs_state ..
  all_goals cases hpart

/-! The operations of the channel itself. -/

/-- The transitions of R154: what `i` does to the state of channel `c`, where it moves it. -/
def ChanTransition (i : Instr) (c : Chan) (before after : ChanState) : Prop :=
  (∃ config draw, i = .bsOpen c config draw ∧ before ≠ .opened ∧ serialLegal config ∧
    after = if draw = .ok then .opened else .errored) ∨
  (i = .bsClose c ∧ after = .closed) ∨
  (∃ kind, i = .bsChanError c kind ∧ before = .opened ∧ after = .errored)

theorem traced_chan (s : State) (notes : List Notification) (results : List Return) (c : Chan) :
    (traced s notes results).chan c = s.chan c := by
  cases c <;> rfl

theorem requestLost_chan (s : State) (c d : Chan) : (requestLost s c).chan d = s.chan d := by
  rw [← State.loseRequest_eq_requestLost, State.loseRequest_chan]

theorem openError_eq_none_iff (draw : OpenDraw) : openError draw = none ↔ draw = .ok := by
  cases draw <;> simp [openError]

theorem bsOpen_transition {s t : State} {c : Chan} {config : SerialCfg} {draw : OpenDraw}
    (h : exec (.bsOpen c config draw) s = .next t) (hne : (t.chan c).state ≠ (s.chan c).state) :
    ChanTransition (.bsOpen c config draw) c (s.chan c).state (t.chan c).state := by
  by_cases hopen : (s.chan c).state = .opened
  · obtain rfl := Host.Outcome.next.inj ((exec_bsOpen_of_open hopen).symm.trans h)
    exact absurd (by rw [traced_chan]) hne
  by_cases hlegal : serialLegal config
  · refine .inl ⟨config, draw, rfl, hopen, hlegal, ?_⟩
    cases hdraw : openError draw with
    | none =>
      obtain rfl := (openError_eq_none_iff draw).1 hdraw
      obtain rfl := Host.Outcome.next.inj ((exec_bsOpen_of_ok hopen hlegal).symm.trans h)
      rw [traced_chan, State.chan_setChan_same]
      rfl
    | some kind =>
      have hok : draw ≠ .ok := fun hok => by simp [(openError_eq_none_iff draw).2 hok] at hdraw
      obtain rfl := Host.Outcome.next.inj ((exec_bsOpen_of_error hopen hlegal hdraw).symm.trans h)
      rw [traced_chan, State.chan_setChan_same, if_neg hok]
  · obtain rfl := Host.Outcome.next.inj ((exec_bsOpen_of_illegal hopen hlegal).symm.trans h)
    exact absurd (by rw [traced_chan]) hne

theorem bsClose_state {s t : State} {c : Chan} (h : exec (.bsClose c) s = .next t) : (t.chan c).state = .closed := by
  by_cases hopen : (s.chan c).state = .opened
  · obtain rfl := Host.Outcome.next.inj ((exec_bsClose_of_open hopen).symm.trans h)
    rw [traced_chan, State.chan_setChan_same, emptied]
  · obtain rfl := Host.Outcome.next.inj ((exec_bsClose_of_not_open hopen).symm.trans h)
    rw [traced_chan, State.chan_setChan_same, emptied]

theorem bsChanError_state {s t : State} {c : Chan} {kind : DeviceError} (h : exec (.bsChanError c kind) s = .next t)
    (hne : (t.chan c).state ≠ (s.chan c).state) : (s.chan c).state = .opened ∧ (t.chan c).state = .errored := by
  by_cases hopen : (s.chan c).state = .opened
  · obtain rfl := Host.Outcome.next.inj ((exec_bsChanError_of_open kind hopen).symm.trans h)
    exact ⟨hopen, by rw [traced_chan, requestLost_chan, State.chan_setChan_same, emptied]⟩
  · obtain rfl := Host.Outcome.next.inj ((exec_bsChanError_of_not_open kind hopen).symm.trans h)
    exact absurd rfl hne

theorem chan_transition {i : Instr} {s t : State} {c : Chan} (hpart : changedPart i = some (.chan c))
    (h : exec i s = .next t) (hne : (t.chan c).state ≠ (s.chan c).state) :
    ChanTransition i c (s.chan c).state (t.chan c).state := by
  cases i
  case bsOpen =>
    cases hpart
    exact bsOpen_transition h hne
  case bsClose =>
    cases hpart
    exact .inr (.inl ⟨rfl, bsClose_state h⟩)
  case bsChanError c' kind =>
    cases hpart
    obtain ⟨hbefore, hafter⟩ := bsChanError_state h hne
    exact .inr (.inr ⟨kind, rfl, hbefore, hafter⟩)
  case exceptionResponseDecode link fc code => cases link <;> cases hpart
  all_goals cases hpart
  all_goals
    obtain rfl := Host.Outcome.next.inj h
    refine absurd ?_ hne
  case bsWrite | bsReadAvailable => simp
  case bsReadLine | bsTxDrain => split <;> simp
  case bsRxBytes =>
    split
    · split <;> simp
    · rfl

end Sys2Proof.Machine

open Sys2Proof.Machine in
/-- Settles O18: a channel changes by its own operations or by its owner's, and those of the owner keep its state. -/
theorem onlyOpenCloseAndErrorsMoveAChannel : Obligations.OnlyOpenCloseAndErrorsMoveAChannel := by
  intro i s t c h before after hne
  have hchan : t.chan c ≠ s.chan c := fun hsame => hne (congrArg Channel.state hsame)
  rcases (exec_onlyChanges i s t h).part_of_chan_ne hchan with hpart | ⟨rfl, hpart⟩ | ⟨rfl, hpart⟩
  · exact chan_transition hpart h hne
  · exact absurd (slave_keeps_bs_state hpart h) hne
  · exact absurd (rtuMaster_keeps_bs_state hpart h) hne
end

section
/-! The last steps of suspended calls, chosen or due (R167, R207, R208, R373), in the words of the claims. -/
open Sys2Proof Sys2Proof.Machine Sys2Proof.Claims

namespace Sys2Proof.Machine

theorem stopDone_iff_stopOver (s : State) (c : StopCall) : stopDone s c ↔ s.stopOver c = true := by
  simp [stopDone, State.stopOver, Can.started, or_assoc]

theorem State.endWait_eq_traced (s : State) (w : Wait) (b : Bool) (rest : List Wait) :
    s.endWait w b rest = traced { s with waits := rest } [] [returned (.chan w.chan) 0x16#8 (.bool b)] :=
  State.ret_eq_traced ..

theorem State.endStop_eq_stopEnded (s : State) (c : StopCall) (rest : List StopCall) :
    s.endStop c rest = stopEnded s c rest :=
  State.ret_eq_traced ..

/-- Whether a call is due does not depend on the inputs to come. -/
theorem State.waitOutcome_takes (s : State) (rest : List Input) (w : Wait) :
    State.waitOutcome { s with inbox := rest } w = s.waitOutcome w :=
  State.waitOutcome_congr _ _ w (fun c => by cases c <;> rfl) rfl

theorem step_of_chosenReturn {s t : State} (h : s.chosenReturn = some t) : step s = .next t := by
  simp only [step, h]

theorem step_of_mustReturn {s t : State} (hc : s.chosenReturn = none) (h : s.mustReturn = some t) : step s = .next t := by
  simp only [step, hc, h]

theorem chosenReturn_wait {s : State} {before after : List Wait} {w : Wait} {b : Bool} {rest : List Input}
    (hinbox : s.inbox = .waitReturns before.length :: rest) (hwaits : s.waits = before ++ w :: after)
    (hdue : waitResult s w = some b) :
    s.chosenReturn = some (State.endWait { s with inbox := rest } w b (before ++ after)) := by
  simp only [State.chosenReturn, hinbox]
  rw [State.waitReturns_between { s with inbox := rest } before after w hwaits, State.waitOutcome_takes,
    ← waitResult_eq_waitOutcome, hdue, Option.map_some]

theorem chosenReturn_stop {s : State} {before after : List StopCall} {c : StopCall} {rest : List Input}
    (hinbox : s.inbox = .stopReturns before.length :: rest) (hstops : s.stops = before ++ c :: after)
    (hdone : stopDone s c) : s.chosenReturn = some (State.endStop { s with inbox := rest } c (before ++ after)) := by
  have hover : State.stopOver { s with inbox := rest } c = true := (stopDone_iff_stopOver s c).1 hdone
  simp only [State.chosenReturn, hinbox]
  rw [State.stopReturns_between { s with inbox := rest } before after c hstops, if_pos hover]

/-- An inbox that chooses no enabled last step lets a due call, or the input, take the step. -/
theorem chosenReturn_eq_none_of_not_chooses {s : State} (h : ¬ choosesLastStep s) : s.chosenReturn = none := by
  cases hc : s.chosenReturn with
  | none => rfl
  | some t =>
    refine absurd ?_ h
    rcases s.chosenReturn_cases t hc with ⟨before, after, w, b, rest, hinbox, hwaits, hdue, -⟩ |
      ⟨before, after, c, rest, hinbox, hstops, hover, -⟩
    · exact ⟨_, rest, .inl ⟨hinbox, w, by simp [hwaits], by simp [waitResult_eq_waitOutcome, hdue]⟩⟩
    · exact ⟨_, rest, .inr ⟨hinbox, c, by simp [hstops], (stopDone_iff_stopOver s c).2 hover⟩⟩

theorem chosenReturn_eq_none_of_not_names {s : State} (h : ¬ namesLastStep s) : s.chosenReturn = none :=
  s.chosenReturn_eq_none (fun k rest hinbox => h ⟨k, rest, .inl hinbox⟩) (fun k rest hinbox => h ⟨k, rest, .inr hinbox⟩)

/-- The oldest due `waitReady` comes first. -/
theorem mustReturn_wait {s : State} {before after : List Wait} {w : Wait} {b : Bool}
    (hwaits : s.waits = before ++ w :: after) (hbefore : ∀ x ∈ before, waitResult s x = none)
    (hdue : waitResult s w = some b) : s.mustReturn = some (s.endWait w b (before ++ after)) := by
  simp only [waitResult_eq_waitOutcome] at hbefore hdue
  simp only [State.mustReturn, hwaits, takeFirst_append _ before after w b hbefore hdue]

/-- With no `waitReady` due, the oldest `stop` whose join time is up does. -/
theorem mustReturn_stop {s : State} {before after : List StopCall} {c : StopCall}
    (hnone : ∀ w ∈ s.waits, waitResult s w = none) (hstops : s.stops = before ++ c :: after)
    (hbefore : ∀ x ∈ before, s.now < x.deadline) (hdue : c.deadline ≤ s.now) :
    s.mustReturn = some (s.endStop c (before ++ after)) := by
  simp only [waitResult_eq_waitOutcome, ← takeFirst_eq_none] at hnone
  simp only [← State.joinOver_eq_none] at hbefore
  have hover : s.joinOver c = some () := if_pos hdue
  simp only [State.mustReturn, hnone, hstops, takeFirst_append _ before after c () hbefore hover]

theorem takeInput_of_namesLastStep {s : State} (h : namesLastStep s) :
    takeInput s = .next { s with inbox := s.inbox.tail } := by
  obtain ⟨k, rest, hinbox | hinbox⟩ := h <;> simp only [takeInput, hinbox, List.tail_cons]

/-! When the receive thread ends (R207, R208). -/

/-- An iteration with the flag set leaves the thread active or asleep. -/
theorem threadTurn_thread_ne (s : State) : s.threadTurn.can.thread ≠ .stopped := by
  unfold State.threadTurn
  split
  · dsimp only
    split <;> simp
  · simp

theorem Can.setActiveBuffer_thread (can : Can) (fs : List CanFrame) : (can.setActiveBuffer fs).thread = can.thread := by
  unfold Can.setActiveBuffer
  split <;> rfl

/-- Of the operations only the thread's own step ends the thread, with the flag cleared. -/
theorem exec_ends_thread {i : Instr} {s t : State} (h : exec i s = .next t) (hs : s.can.thread ≠ .stopped)
    (ht : t.can.thread = .stopped) : i = .canThreadStep ∧ s.can.running = false := by
  have hpart := (exec_onlyChanges i s t h).part_of_can_ne fun hsame => hs (hsame ▸ ht)
  cases i
  case exceptionResponseDecode link fc code => cases link <;> cases hpart
  all_goals obtain rfl := Host.Outcome.next.inj h
  case canThreadStep =>
    refine ⟨rfl, Bool.eq_false_iff.2 fun hrun => ?_⟩
    split at ht
    · exact threadTurn_thread_ne s (by simpa only [hrun, if_true] using ht)
    · exact hs ht
  case canStart =>
    split at ht
    · exact absurd ht hs
    · cases ht
  case canStop | canNormalDrain => split at ht <;> exact absurd ht hs
  case canReadFrame =>
    split at ht
    · exact absurd ht hs
    · exact absurd ((Can.setActiveBuffer_thread ..).symm.trans ht) hs
  case canReadAllFrames => exact absurd ((Can.setActiveBuffer_thread ..).symm.trans ht) hs
  case canArrive => exact absurd ht hs
  all_goals cases hpart

/-- A last step that ends the thread is that of a `stop` that waits for it, at its join time. -/
theorem LastStep.ends_thread {s t : State} (h : LastStep s t) (hs : s.can.thread ≠ .stopped)
    (ht : t.can.thread = .stopped) : ∃ c ∈ s.stops, c.joined = false ∧ c.deadline ≤ s.now := by
  cases h with
  | wait w b before after split due => exact absurd ht hs
  | stop c before after split ended =>
    have hwaits : c.joined = false := Bool.eq_false_iff.2 fun hjoined =>
      hs (Can.halted_of_joined s.can c hjoined ▸ ht)
    have hdone : stopDone s c := (stopDone_iff_stopOver s c).2 ended
    exact ⟨c, by simp [split], hwaits, by simpa [stopDone, hwaits, hs] using hdone⟩

/-- No configuration write touches the thread. -/
theorem configure_thread (s : State) (w : ConfigWrite) : (s.configure w).can.thread = s.can.thread := by
  rcases configure_cases s w with ⟨notes, results, h⟩ | ⟨-, -, h⟩ <;> rw [h]
  cases w <;> rfl

/-- A step ends the thread as the thread's own step, or by force at the join time of a `stop` that waits for it; such a `stop`
is there only with the flag cleared. -/
theorem step_ends_thread {s t : State} (hok : s.canOk) (h : step s = .next t) (hs : s.can.thread ≠ .stopped)
    (ht : t.can.thread = .stopped) :
    s.can.running = false ∧
      ((∃ bytes rest, s.inbox = .operation bytes :: rest ∧ decode bytes = .ok .canThreadStep) ∨
        ∃ c ∈ s.stops, c.joined = false ∧ c.deadline ≤ s.now) := by
  rcases step_cases s t h with ⟨rest, hlast⟩ | ⟨rest, rfl⟩ | ⟨bytes, rest, i, hinbox, hdecode, hexec⟩ |
    ⟨w, rest, -, rfl⟩
  · obtain ⟨c, hc, hwaits, hdue⟩ := hlast.ends_thread hs ht
    obtain ⟨-, -, -, -, -, -, -, hset, -⟩ := hok
    have hcleared : s.can.running = false := Bool.eq_false_iff.2 fun hrun => by
      simp [hset ((Can.started_iff _).2 hs) hrun c hc] at hwaits
    exact ⟨hcleared, .inr ⟨c, hc, hwaits, hdue⟩⟩
  · exact absurd ht hs
  · obtain ⟨rfl, hcleared⟩ := exec_ends_thread hexec hs ht
    exact ⟨hcleared, .inl ⟨bytes, rest, hinbox, hdecode⟩⟩
  · exact absurd ((configure_thread ..).symm.trans ht) hs

end Sys2Proof.Machine

open Sys2Proof.Machine in
/-- Settles O6: a chosen last step is `State.chosenReturn`, a due one `State.mustReturn`, and one that is not enabled is taken out
as any input is; the last clause is `step_ends_thread`. -/
theorem suspendedCallsReturnInStepsOfTheirOwn : Obligations.SuspendedCallsReturnInStepsOfTheirOwn := by
  refine ⟨fun s before after w b rest hinbox hwaits hdue => ?chosenWait,
    fun s before after c rest hinbox hstops hdone => ?chosenStop,
    fun s before after w b hchooses hwaits hbefore hdue => ?dueWait,
    fun s before after c hchooses hnone hstops hbefore hdue => ?dueStop,
    fun s hdue hnames hchooses => ?notEnabled, fun s t => step_ends_thread⟩
  case chosenWait =>
    rw [step_of_chosenReturn (chosenReturn_wait hinbox hwaits hdue), State.endWait_eq_traced]
  case chosenStop =>
    rw [step_of_chosenReturn (chosenReturn_stop hinbox hstops hdone), State.endStop_eq_stopEnded]
  case dueWait =>
    rw [step_of_mustReturn (chosenReturn_eq_none_of_not_chooses hchooses) (mustReturn_wait hwaits hbefore hdue),
      State.endWait_eq_traced]
  case dueStop =>
    rw [step_of_mustReturn (chosenReturn_eq_none_of_not_chooses hchooses) (mustReturn_stop hnone hstops hbefore hdue),
      State.endStop_eq_stopEnded]
  case notEnabled =>
    rw [step_of_noReturn s (chosenReturn_eq_none_of_not_chooses hchooses) ((noCallDue_iff_mustReturn_eq_none s).1 hdue),
      takeInput_of_namesLastStep hnames]
end

section
/-! While a call is due, steps return calls (R167, R208, R369): each ends one, and as many as are due end them all. -/
open Sys2Proof Sys2Proof.Machine Sys2Proof.Claims

namespace Sys2Proof.Machine

/-! One step. -/

theorem chosenReturn_lastStep {s t : State} (h : s.chosenReturn = some t) :
    ∃ k rest, (s.inbox = .waitReturns k :: rest ∨ s.inbox = .stopReturns k :: rest) ∧
      LastStep { s with inbox := rest } t := by
  rcases s.chosenReturn_cases t h with ⟨before, after, w, b, rest, hinbox, hwaits, hdue, rfl⟩ |
    ⟨before, after, c, rest, hinbox, hstops, hover, rfl⟩
  · exact ⟨_, rest, .inl hinbox, .wait w b before after hwaits ((s.waitOutcome_takes rest w).trans hdue)⟩
  · exact ⟨_, rest, .inr hinbox, .stop c before after hstops hover⟩

theorem mustReturn_lastStep {s t : State} (h : s.mustReturn = some t) : LastStep s t := by
  rcases s.mustReturn_cases t h with ⟨w, b, before, after, hwaits, hdue, -, rfl⟩ |
    ⟨-, c, before, after, hstops, hdue, -, rfl⟩
  · exact .wait w b before after hwaits hdue
  · exact .stop c before after hstops (by simp [State.stopOver, hdue])

/-- A last step ends one suspended call; the clock and the inputs to come stay. -/
theorem LastStep.ends_one {s t : State} (h : LastStep s t) :
    t.waits.length + t.stops.length + 1 = s.waits.length + s.stops.length ∧ t.now = s.now ∧ t.inbox = s.inbox := by
  cases h with
  | wait w b before after split due =>
    refine ⟨?_, rfl, rfl⟩
    simp only [State.endWait_waits, State.endWait_stops, split, List.length_append, List.length_cons]
    omega
  | stop c before after split ended =>
    refine ⟨?_, rfl, rfl⟩
    simp only [State.endStop_waits, State.endStop_stops, split, List.length_append, List.length_cons]
    omega

theorem step_ends_one {s : State} (hdue : ¬ noCallDue s) :
    ∃ t, step s = .next t ∧ t.now = s.now ∧ t.waits.length + t.stops.length + 1 = s.waits.length + s.stops.length ∧
      (t.inbox = s.inbox ∨ ∃ k, s.inbox = .waitReturns k :: t.inbox ∨ s.inbox = .stopReturns k :: t.inbox) := by
  cases hc : s.chosenReturn with
  | some t =>
    obtain ⟨k, rest, hinbox, hlast⟩ := chosenReturn_lastStep hc
    obtain ⟨hcount, hnow, hrest⟩ := hlast.ends_one
    exact ⟨t, step_of_chosenReturn hc, hnow, hcount, .inr ⟨k, hrest ▸ hinbox⟩⟩
  | none =>
    cases hm : s.mustReturn with
    | some t =>
      obtain ⟨hcount, hnow, hinbox⟩ := (mustReturn_lastStep hm).ends_one
      exact ⟨t, step_of_mustReturn hc hm, hnow, hcount, .inl hinbox⟩
    | none => exact absurd ((noCallDue_iff_mustReturn_eq_none s).2 hm) hdue

/-! All of them. -/

/-- The `stop` calls whose join time is up. -/
def State.lateStops (s : State) : List StopCall := s.stops.filter fun c => decide (c.deadline ≤ s.now)

/-- The results of those of `ws` that are due. -/
def State.waitResults (s : State) (ws : List Wait) : List Return :=
  ws.filterMap fun w => (waitResult s w).map fun b => returned (.chan w.chan) 0x16#8 (.bool b)

/-- How many suspended calls are due. -/
def State.dueCount (s : State) : Nat := (s.waits.filter fun w => (waitResult s w).isSome).length + s.lateStops.length

/-- `s` once every due call has returned, the `waitReady` calls first (log 10). -/
def State.dueReturned (s : State) : State :=
  { s with
    can := if s.lateStops.any fun c => !c.joined then { s.can with thread := .stopped, q := [] } else s.can
    waits := s.waits.filter fun w => (waitResult s w).isNone
    stops := s.stops.filter fun c => decide (s.now < c.deadline)
    returns := s.returns ++ s.waitResults s.waits ++ s.lateStops.map fun _ => returned .can 0x21#8 .void }

/-- `dueReturned` differs from its state in four fields. -/
theorem State.dueReturned_congr {s t : State}
    (hframe : t = { s with can := t.can, waits := t.waits, stops := t.stops, returns := t.returns })
    (hcan : t.dueReturned.can = s.dueReturned.can) (hwaits : t.dueReturned.waits = s.dueReturned.waits)
    (hstops : t.dueReturned.stops = s.dueReturned.stops) (hreturns : t.dueReturned.returns = s.dueReturned.returns) :
    t.dueReturned = s.dueReturned := by
  have hfields : ∀ u : State, u.dueReturned = { u with
      can := u.dueReturned.can, waits := u.dueReturned.waits, stops := u.dueReturned.stops
      returns := u.dueReturned.returns } := fun _ => rfl
  rw [hfields t, hcan, hwaits, hstops, hreturns, hframe]
  rfl

section
variable {s : State} {ws : List Wait}

theorem waitResults_of_none (h : ∀ w ∈ ws, waitResult s w = none) : s.waitResults ws = [] :=
  List.filterMap_eq_nil_iff.2 fun w hw => by rw [h w hw, Option.map_none]

theorem filter_isSome_of_none (h : ∀ w ∈ ws, waitResult s w = none) :
    (ws.filter fun w => (waitResult s w).isSome) = [] :=
  List.filter_eq_nil_iff.2 fun w hw => by simp [h w hw]

theorem filter_isNone_of_none (h : ∀ w ∈ ws, waitResult s w = none) :
    (ws.filter fun w => (waitResult s w).isNone) = ws :=
  List.filter_eq_self.2 fun w hw => by simp [h w hw]

end

section
variable {cs : List StopCall} {now : Nat}

theorem filter_late_of_early (h : ∀ c ∈ cs, now < c.deadline) : (cs.filter fun c => decide (c.deadline ≤ now)) = [] :=
  List.filter_eq_nil_iff.2 fun c hc => by simpa using h c hc

theorem filter_early_of_early (h : ∀ c ∈ cs, now < c.deadline) : (cs.filter fun c => decide (now < c.deadline)) = cs :=
  List.filter_eq_self.2 fun c hc => by simpa using h c hc

end

/-- Whether a suspended `waitReady` returns depends on the channels and the clock only. -/
theorem waitResult_congr {s t : State} (hchan : ∀ c, t.chan c = s.chan c) (hnow : t.now = s.now) (w : Wait) :
    waitResult t w = waitResult s w := by
  rw [waitResult_eq_waitOutcome, waitResult_eq_waitOutcome, State.waitOutcome_congr s t w hchan hnow]

theorem waitResult_dueReturned (s : State) (w : Wait) : waitResult s.dueReturned w = waitResult s w :=
  waitResult_congr (fun c => by cases c <;> rfl) rfl w

/-- The calls that were not due are still not. -/
theorem noCallDue_dueReturned (s : State) : noCallDue s.dueReturned := by
  refine ⟨fun w hw => ?_, fun c hc => of_decide_eq_true (List.mem_filter.1 hc).2⟩
  rw [waitResult_dueReturned]
  exact Option.isNone_iff_eq_none.1 (List.mem_filter.1 hw).2

/-- With no call due there is none to return. -/
theorem dueReturned_of_noCallDue {s : State} (h : noCallDue s) : s.dueCount = 0 ∧ s.dueReturned = s := by
  obtain ⟨hwaits, hstops⟩ := h
  have hlate : s.lateStops = [] := filter_late_of_early hstops
  constructor
  · simp [State.dueCount, filter_isSome_of_none hwaits, hlate]
  · simp [State.dueReturned, hlate, waitResults_of_none hwaits, filter_isNone_of_none hwaits,
      filter_early_of_early hstops]

theorem waitResult_endWait (s : State) (w : Wait) (b : Bool) (rest : List Wait) :
    waitResult (s.endWait w b rest) = waitResult s :=
  funext fun x => waitResult_congr (State.endWait_chan s w b rest) rfl x

theorem waitResult_endStop (s : State) (c : StopCall) (rest : List StopCall) :
    waitResult (s.endStop c rest) = waitResult s :=
  funext fun x => waitResult_congr (State.endStop_chan s c rest) rfl x

/-- The oldest due `waitReady` has returned: one call fewer is due, and the rest return as before. -/
theorem dueReturned_endWait {s : State} {w : Wait} {b : Bool} {before after : List Wait}
    (hwaits : s.waits = before ++ w :: after) (hbefore : ∀ x ∈ before, waitResult s x = none)
    (hdue : waitResult s w = some b) :
    (s.endWait w b (before ++ after)).dueCount + 1 = s.dueCount ∧
      (s.endWait w b (before ++ after)).dueReturned = s.dueReturned := by
  have hlate : (s.endWait w b (before ++ after)).lateStops = s.lateStops := rfl
  have hresults : ∀ ws, (s.endWait w b (before ++ after)).waitResults ws = s.waitResults ws := fun ws => by
    rw [State.waitResults, waitResult_endWait, State.waitResults]
  have hfirst : s.waitResults s.waits = returned (.chan w.chan) 0x16#8 (.bool b) :: s.waitResults (before ++ after) := by
    rw [hwaits]
    have hnone := waitResults_of_none hbefore
    simp only [State.waitResults, List.filterMap_append, List.filterMap_cons, hdue, Option.map_some] at hnone ⊢
    rw [hnone, List.nil_append, List.nil_append]
  refine ⟨?count, State.dueReturned_congr rfl rfl ?waits rfl ?returns⟩
  case count =>
    simp only [State.dueCount, waitResult_endWait, hlate, State.endWait_waits, hwaits, List.filter_append,
      List.filter_cons, filter_isSome_of_none hbefore, hdue, Option.isSome_some, if_true, List.nil_append, List.length_cons]
    omega
  case waits => simp [State.dueReturned, waitResult_endWait, hwaits, hdue]
  case returns => simp [State.dueReturned, hlate, hresults, hfirst, returned]

/-- With no `waitReady` due, the oldest late `stop` has returned. -/
theorem dueReturned_endStop {s : State} {c : StopCall} {before after : List StopCall}
    (hnone : ∀ w ∈ s.waits, waitResult s w = none) (hstops : s.stops = before ++ c :: after)
    (hbefore : ∀ x ∈ before, s.now < x.deadline) (hdue : c.deadline ≤ s.now) :
    (s.endStop c (before ++ after)).dueCount + 1 = s.dueCount ∧
      (s.endStop c (before ++ after)).dueReturned = s.dueReturned := by
  have hlate : s.lateStops = c :: (s.endStop c (before ++ after)).lateStops := by
    change s.stops.filter _ = c :: (before ++ after).filter fun d => decide (d.deadline ≤ s.now)
    simp [hstops, hdue, filter_late_of_early hbefore]
  have hresults : (s.endStop c (before ++ after)).waitResults s.waits = [] :=
    waitResults_of_none (by rwa [waitResult_endStop])
  refine ⟨?count, State.dueReturned_congr rfl ?can ?waits ?stops ?returns⟩
  case count =>
    simp only [State.dueCount, waitResult_endStop, State.endStop_waits, hlate, List.length_cons]
    omega
  case can => cases hjoined : c.joined <;> simp [State.dueReturned, hlate, Can.halted, hjoined]
  case waits => simp only [State.dueReturned, waitResult_endStop, State.endStop_waits]
  case stops =>
    change (before ++ after).filter (fun d => decide (s.now < d.deadline)) = s.stops.filter _
    simp [hstops, hdue]
  case returns => simp [State.dueReturned, hlate, hresults, waitResults_of_none hnone, returned]

/-- A due call returns, the oldest `waitReady` first: one fewer is due then, and the end is the same. -/
theorem dueReturned_of_mustReturn {s t : State} (h : s.mustReturn = some t) :
    t.dueCount + 1 = s.dueCount ∧ t.dueReturned = s.dueReturned := by
  rcases s.mustReturn_cases t h with ⟨w, b, before, after, hwaits, hdue, hbefore, rfl⟩ |
    ⟨hnone, c, before, after, hstops, hdue, hbefore, rfl⟩
  · simp only [← waitResult_eq_waitOutcome] at hdue hbefore
    exact dueReturned_endWait hwaits hbefore hdue
  · simp only [← waitResult_eq_waitOutcome] at hnone
    exact dueReturned_endStop hnone hstops hbefore hdue

/-- As many steps as calls are due return them all: by induction on their number. -/
theorem stepTimes_dueCount {s : State} (hnames : ¬ namesLastStep s) : stepTimes s.dueCount s = .next s.dueReturned := by
  induction hn : s.dueCount generalizing s with
  | zero =>
    cases hm : s.mustReturn with
    | none =>
      obtain ⟨-, hsame⟩ := dueReturned_of_noCallDue ((noCallDue_iff_mustReturn_eq_none s).2 hm)
      rw [hsame, stepTimes]
    | some t =>
      have hcount := (dueReturned_of_mustReturn hm).1
      omega
  | succ n ih =>
    cases hm : s.mustReturn with
    | none =>
      have hcount := (dueReturned_of_noCallDue ((noCallDue_iff_mustReturn_eq_none s).2 hm)).1
      omega
    | some t =>
      obtain ⟨hcount, hsame⟩ := dueReturned_of_mustReturn hm
      obtain ⟨-, -, hinbox⟩ := (mustReturn_lastStep hm).ends_one
      have hstep : step s = .next t := step_of_mustReturn (chosenReturn_eq_none_of_not_names hnames) hm
      rw [stepTimes, hstep, ← hsame]
      exact ih (by rwa [namesLastStep, hinbox]) (by omega)

end Sys2Proof.Machine

open Sys2Proof.Machine in
/-- Settles O59: a due call makes every step a last step, and each last step taken in the model's order leaves one due call
fewer and the same state to reach. -/
theorem dueCallsReturnBeforeTheNextInput : Obligations.DueCallsReturnBeforeTheNextInput :=
  ⟨fun _ hdue => step_ends_one hdue, fun s hnames => ⟨stepTimes_dueCount hnames, noCallDue_dueReturned s⟩⟩
end

section
/-! The host operations of the CAN unit, the arrival and the normal path (42_can.md), one rule per operation and case, each
next state written with `traced`. -/
open Sys2Proof Sys2Proof.Machine Sys2Proof.Claims

namespace Sys2Proof.Machine

variable {s : State}

theorem Can.started_eq_false_iff (can : Can) : can.started = false ↔ can.thread = .stopped := by
  simp [Can.started]

/-! Starting and stopping (R198, R207). -/

theorem exec_canStart_of_stopped (hthread : s.can.thread = .stopped) :
    exec .canStart s = .next
      (traced
        { s with
          can := { s.can with q := [], received := 0, dropped := 0, running := true, thread := .active }
          stops := s.stops.map StopCall.join } []
        [returned .can 0x20#8 .void]) := by
  rw [← Can.started_eq_false_iff] at hthread
  simp [exec, execCanStart, hthread, State.ret_eq_traced]

theorem exec_canStart_of_started (hthread : s.can.thread ≠ .stopped) :
    exec .canStart s = .next (traced s [] [returned .can 0x20#8 .void]) := by
  rw [← Can.started_iff] at hthread
  simp [exec, execCanStart, hthread, State.ret_eq_traced]

theorem exec_canStop_of_stopped (hthread : s.can.thread = .stopped) :
    exec .canStop s = .next (traced s [] [returned .can 0x21#8 .void]) := by
  rw [← Can.started_eq_false_iff] at hthread
  simp [exec, execCanStop, hthread, State.ret_eq_traced]

theorem exec_canStop_of_started (hthread : s.can.thread ≠ .stopped) :
    exec .canStop s = .next
      { s with can := { s.can with running := false }, stops := s.stops ++ [⟨s.now + s.params.joinTimeoutMs, false⟩] } := by
  rw [← Can.started_iff] at hthread
  simp [exec, execCanStop, hthread]

/-! The reads, on the active buffer (R191, R209 to R213). -/

theorem Can.activeBuffer_of_stopped {can : Can} (hthread : can.thread = .stopped) : can.activeBuffer = can.vbuf := by
  simp [Can.activeBuffer, (Can.started_eq_false_iff can).2 hthread]

theorem Can.activeBuffer_of_started {can : Can} (hthread : can.thread ≠ .stopped) : can.activeBuffer = can.q := by
  simp [Can.activeBuffer, (Can.started_iff can).2 hthread]

theorem Can.setActiveBuffer_of_stopped {can : Can} (hthread : can.thread = .stopped) (fs : List CanFrame) :
    can.setActiveBuffer fs = { can with vbuf := fs } := by
  simp [Can.setActiveBuffer, (Can.started_eq_false_iff can).2 hthread]

theorem Can.setActiveBuffer_of_started {can : Can} (hthread : can.thread ≠ .stopped) (fs : List CanFrame) :
    can.setActiveBuffer fs = { can with q := fs } := by
  simp [Can.setActiveBuffer, (Can.started_iff can).2 hthread]

theorem exec_canReadFrame_of_nil (hbuffer : s.can.activeBuffer = []) :
    exec .canReadFrame s = .next (traced s [] [returned .can 0x22#8 (.frameOrNone none)]) := by
  simp only [exec, execCanReadFrame, hbuffer, State.ret_eq_traced]

theorem exec_canReadFrame_of_cons {f : CanFrame} {rest : List CanFrame} (hbuffer : s.can.activeBuffer = f :: rest) :
    exec .canReadFrame s = .next
      (traced { s with can := s.can.setActiveBuffer rest } [] [returned .can 0x22#8 (.frameOrNone (some f))]) := by
  simp only [exec, execCanReadFrame, hbuffer, State.ret_eq_traced]

theorem exec_canReadAllFrames (s : State) :
    exec .canReadAllFrames s = .next
      (traced { s with can := s.can.setActiveBuffer [] } [] [returned .can 0x23#8 (.frames s.can.activeBuffer)]) := by
  simp only [exec, execCanReadAllFrames, State.ret_eq_traced]

theorem exec_canBufferedCount (s : State) :
    exec .canBufferedCount s = .next (traced s [] [returned .can 0x24#8 (.count s.can.activeBuffer.length)]) := by
  simp only [exec, execCanBufferedCount, State.ret_eq_traced]

theorem exec_canReceivedCount (s : State) :
    exec .canReceivedCount s = .next (traced s [] [returned .can 0x25#8 (.count s.can.received)]) := by
  simp only [exec, execCanReceivedCount, State.ret_eq_traced]

theorem exec_canDroppedCount (s : State) :
    exec .canDroppedCount s = .next (traced s [] [returned .can 0x26#8 (.count s.can.dropped)]) := by
  simp only [exec, execCanDroppedCount, State.ret_eq_traced]

/-! The normal path (R195). -/

theorem Can.drainEnabled_iff (can : Can) : can.drainEnabled = true ↔ can.thread = .stopped ∧ can.devq ≠ [] := by
  simp [Can.drainEnabled, Can.started]

theorem exec_canNormalDrain_of_enabled (henabled : s.can.drainEnabled = true) :
    exec .canNormalDrain s = .next
      (traced { s with can := { s.can with vbuf := lastN s.can.vcap (s.can.vbuf ++ s.can.devq), devq := [] } }
        (s.can.devq.map fun f => ⟨.can, .frameReceived f⟩) []) := by
  simp [exec, execCanNormalDrain, henabled, traced]

theorem exec_canNormalDrain_of_not_enabled (henabled : ¬ s.can.drainEnabled = true) : exec .canNormalDrain s = .next s := by
  simp only [exec, execCanNormalDrain, if_neg henabled]

end Sys2Proof.Machine

/-- Settles O20: a rule for each of the two operations on a stopped and on a started path. -/
theorem canStartAndStop : Obligations.CanStartAndStop :=
  fun _ => ⟨exec_canStart_of_stopped, exec_canStart_of_started, exec_canStop_of_stopped, exec_canStop_of_started⟩

/-- Settles O21: the buffer the rules name is the model's active buffer, and so is its replacement; then a rule per read. -/
theorem canReadsActOnTheActiveBuffer : Obligations.CanReadsActOnTheActiveBuffer := by
  intro s active setActive hactive
  obtain ⟨hbuffer, hset⟩ : active = s.can.activeBuffer ∧
      ∀ fs, setActive fs = { s with can := s.can.setActiveBuffer fs } := by
    rcases hactive with ⟨hthread, rfl, rfl⟩ | ⟨hthread, rfl, rfl⟩
    · exact ⟨(Can.activeBuffer_of_stopped hthread).symm, fun fs => by rw [Can.setActiveBuffer_of_stopped hthread]⟩
    · exact ⟨(Can.activeBuffer_of_started hthread).symm, fun fs => by rw [Can.setActiveBuffer_of_started hthread]⟩
  simp only [hbuffer, hset]
  exact ⟨exec_canReadFrame_of_nil, fun _ _ => exec_canReadFrame_of_cons, exec_canReadAllFrames s, exec_canBufferedCount s,
    exec_canReceivedCount s, exec_canDroppedCount s⟩

/-- Settles O22: the drain is enabled on a stopped path with frames in the device, and only then. -/
theorem canArrivalAndNormalPath : Obligations.CanArrivalAndNormalPath := by
  refine fun s f => ⟨rfl, fun hthread hdevq => ?enabled, fun hnot => ?notEnabled⟩
  case enabled => exact exec_canNormalDrain_of_enabled (s.can.drainEnabled_iff.2 ⟨hthread, hdevq⟩)
  case notEnabled =>
    refine exec_canNormalDrain_of_not_enabled fun henabled => ?_
    obtain ⟨hthread, hdevq⟩ := s.can.drainEnabled_iff.1 henabled
    exact hnot.elim (· hthread) hdevq
end

section
/-! The receive thread (42_can.md R199 to R204): the cases of a turn, and a push on a queue with and without room. -/
open Sys2Proof Sys2Proof.Machine Sys2Proof.Claims

namespace Sys2Proof.Machine

theorem Can.stepEnabled_iff (can : Can) (now : Nat) :
    can.stepEnabled now = true ↔ can.thread = .active ∨ (can.thread = .sleeping ∧ can.wake ≤ now) := by
  cases hthread : can.thread <;> simp [Can.stepEnabled, hthread]

theorem Can.overflowDue_iff (can : Can) (every : Nat) :
    can.overflowDue every = true ↔ can.qcap ≤ can.q.length ∧ (can.dropped + 1) % every = 0 := by
  simp [Can.overflowDue]

/-- What a push of `f` notifies (R200 to R202). -/
def Can.pushNotes (can : Can) (every : Nat) (f : CanFrame) : List Notification :=
  (if can.overflowDue every then [⟨.can, .bufferOverflow (can.dropped + 1)⟩] else []) ++ [⟨.can, .frameReceived f⟩]

/-- `s` after a turn of the receive thread that takes `f` from the device and leaves `rest` there. -/
def State.pushes (s : State) (f : CanFrame) (rest : List CanFrame) : State :=
  traced { s with can := { s.can.enqueue f with devq := rest, thread := .active } }
    (s.can.pushNotes s.params.ovfNotifyEvery f) []

theorem Can.enqueue_of_room {can : Can} (f : CanFrame) (hroom : ¬ can.qcap ≤ can.q.length) :
    can.enqueue f = { can with q := can.q ++ [f], received := can.received + 1 } :=
  if_neg hroom

theorem Can.enqueue_of_full {can : Can} (f : CanFrame) (hfull : can.qcap ≤ can.q.length) :
    can.enqueue f = { can with q := can.q.drop 1 ++ [f], received := can.received + 1, dropped := can.dropped + 1 } :=
  if_pos hfull

theorem Can.pushNotes_of_not_due {can : Can} {every : Nat} (f : CanFrame)
    (hdue : ¬ (can.qcap ≤ can.q.length ∧ (can.dropped + 1) % every = 0)) :
    can.pushNotes every f = [⟨.can, .frameReceived f⟩] := by
  rw [Can.pushNotes, if_neg (mt (can.overflowDue_iff every).1 hdue), List.nil_append]

theorem Can.pushNotes_of_due {can : Can} {every : Nat} (f : CanFrame)
    (hdue : can.qcap ≤ can.q.length ∧ (can.dropped + 1) % every = 0) :
    can.pushNotes every f = [⟨.can, .bufferOverflow (can.dropped + 1)⟩, ⟨.can, .frameReceived f⟩] := by
  rw [Can.pushNotes, if_pos ((can.overflowDue_iff every).2 hdue), List.singleton_append]

/-! The cases of a turn. -/

section
variable {s : State}

theorem exec_canThreadStep_of_not_enabled (henabled : ¬ s.can.stepEnabled s.now = true) :
    exec .canThreadStep s = .next s := by
  simp only [exec, execCanThreadStep, if_neg henabled]

theorem exec_canThreadStep_of_cleared (henabled : s.can.stepEnabled s.now = true) (hflag : s.can.running = false) :
    exec .canThreadStep s = .next { s with can := { s.can with thread := .stopped } } := by
  simp [exec, execCanThreadStep, henabled, hflag]

/-- With the flag set the turn is that of the loop's body. -/
theorem exec_canThreadStep_of_running (henabled : s.can.stepEnabled s.now = true) (hflag : s.can.running = true) :
    exec .canThreadStep s = .next s.threadTurn := by
  simp only [exec, execCanThreadStep, henabled, hflag, if_true]

theorem threadTurn_of_empty (hdevq : s.can.devq = []) :
    s.threadTurn = { s with can := { s.can with thread := .sleeping, wake := s.now + s.params.canIdleSleepMs } } := by
  simp only [State.threadTurn, hdevq]

theorem threadTurn_of_frame {f : CanFrame} {rest : List CanFrame} (hdevq : s.can.devq = f :: rest) :
    s.threadTurn = s.pushes f rest := by
  simp only [State.threadTurn, hdevq, State.pushes, Can.pushNotes]
  split
  · rename_i hdue
    have hfull := ((s.can.overflowDue_iff _).1 hdue).1
    simp only [State.notify_eq_traced, traced_traced, Can.enqueue_of_full f hfull, List.nil_append]
  · simp only [State.notify_eq_traced, List.nil_append]

end

end Sys2Proof.Machine

/-- Settles O23: a frame of the device is pushed, and the three cases of the push are those of the queue's room and of the
notes. -/
theorem canThreadTurn : Obligations.CanThreadTurn := by
  intro s f rest enabled full pushed replaced warns
  have henabled : s.can.stepEnabled s.now = true ↔ enabled := s.can.stepEnabled_iff s.now
  refine ⟨fun hnot => ?notEnabled, fun hon hflag => ?cleared, fun hon hflag hdevq => ?empty, fun hon hflag hdevq => ?frame⟩
  case notEnabled => exact exec_canThreadStep_of_not_enabled (mt henabled.1 hnot)
  case cleared => exact exec_canThreadStep_of_cleared (henabled.2 hon) hflag
  case empty => rw [exec_canThreadStep_of_running (henabled.2 hon) hflag, threadTurn_of_empty hdevq]
  case frame =>
    rw [exec_canThreadStep_of_running (henabled.2 hon) hflag, threadTurn_of_frame hdevq, State.pushes]
    refine ⟨fun hroom => ?room, fun hfull hquiet => ?quiet, fun hfull hwarns => ?warned⟩
    case room => rw [Can.enqueue_of_room f hroom, Can.pushNotes_of_not_due f fun hdue => hroom hdue.1]
    case quiet => rw [Can.enqueue_of_full f hfull, Can.pushNotes_of_not_due f fun hdue => hquiet hdue.2]
    case warned => rw [Can.enqueue_of_full f hfull, Can.pushNotes_of_due f ⟨hfull, hwarns⟩]
end

section
/-! The queue law (42_can.md R214), stated between any two states of the receive path, so that turns compose. -/
open Sys2Proof Sys2Proof.Machine Sys2Proof.Claims

namespace Sys2Proof.Machine

/-- The newest `n` are found again after the older ones have been given up. -/
theorem lastN_lastN_append {α : Type} (n : Nat) (xs ys : List α) : lastN n (lastN n xs ++ ys) = lastN n (xs ++ ys) := by
  simp only [lastN, List.drop_append, List.drop_drop, List.length_append, List.length_drop]
  congr 2 <;> omega

/-! A push, whether it finds room or not. -/

section
variable {can : Can} (f : CanFrame)

theorem Can.enqueue_q (hcap : 1 ≤ can.qcap) (hq : can.q.length ≤ can.qcap) :
    (can.enqueue f).q = lastN can.qcap (can.q ++ [f]) := by
  by_cases hfull : can.qcap ≤ can.q.length
  · have hone : can.q.length + 1 - can.qcap = 1 := by omega
    rw [Can.enqueue_of_full f hfull, lastN, List.length_append, List.length_singleton, hone,
      List.drop_append_of_le_length (by omega)]
  · rw [Can.enqueue_of_room f hfull, lastN_of_length_le _ _ (by simp; omega)]

theorem Can.enqueue_received : (can.enqueue f).received = can.received + 1 := by
  unfold Can.enqueue
  split <;> rfl

theorem Can.enqueue_dropped (hq : can.q.length ≤ can.qcap) :
    (can.enqueue f).dropped = can.dropped + (can.q.length + 1 - can.qcap) := by
  unfold Can.enqueue
  split <;> simp only <;> omega

/-- A push warns when its drop completes another `every` drops. -/
theorem Can.overflows_pushNotes (every : Nat) :
    ((can.pushNotes every f).filter isOverflow).length + can.dropped / every = (can.enqueue f).dropped / every := by
  by_cases hfull : can.qcap ≤ can.q.length
  · rw [Can.enqueue_of_full f hfull, Nat.succ_div]
    by_cases hevery : every ∣ can.dropped + 1
    · rw [Can.pushNotes_of_due f ⟨hfull, Nat.mod_eq_zero_of_dvd hevery⟩, if_pos hevery]
      exact Nat.add_comm 1 _
    · rw [Can.pushNotes_of_not_due f fun hdue => hevery (Nat.dvd_of_mod_eq_zero hdue.2), if_neg hevery]
      exact Nat.zero_add _
  · rw [Can.enqueue_of_room f hfull, Can.pushNotes_of_not_due f fun hdue => hfull hdue.1]
    exact Nat.zero_add _

end

/-- How many overflows have been notified. -/
def State.overflows (s : State) : Nat := (s.out.filter isOverflow).length

/-- From `s` to `t` the receive thread has taken `frames` from the device and pushed them one by one. -/
structure Receives (s t : State) (frames : List CanFrame) : Prop where
  qcap : t.can.qcap = s.can.qcap
  params : t.params = s.params
  devq : s.can.devq = frames ++ t.can.devq
  q : t.can.q = lastN s.can.qcap (s.can.q ++ frames)
  received : t.can.received = s.can.received + frames.length
  dropped : t.can.dropped = s.can.dropped + (s.can.q.length + frames.length - s.can.qcap)
  overflows : t.overflows + s.can.dropped / s.params.ovfNotifyEvery = s.overflows + t.can.dropped / s.params.ovfNotifyEvery

theorem receives_nil {s : State} (hq : s.can.q.length ≤ s.can.qcap) : Receives s s [] where
  qcap := rfl
  params := rfl
  devq := rfl
  q := by rw [List.append_nil, lastN_of_length_le _ _ hq]
  received := rfl
  dropped := by rw [List.length_nil, Nat.add_zero, Nat.sub_eq_zero_of_le hq, Nat.add_zero]
  overflows := rfl

theorem receives_pushes {s : State} {f : CanFrame} {rest : List CanFrame} (hdevq : s.can.devq = f :: rest)
    (hcap : 1 ≤ s.can.qcap) (hq : s.can.q.length ≤ s.can.qcap) : Receives s (s.pushes f rest) [f] where
  qcap := (s.can.enqueue_frame f).1
  params := rfl
  devq := hdevq
  q := Can.enqueue_q f hcap hq
  received := Can.enqueue_received f
  dropped := Can.enqueue_dropped f hq
  overflows := by
    have hnotes := Can.overflows_pushNotes (can := s.can) f s.params.ovfNotifyEvery
    simp only [State.overflows, State.pushes, traced, List.filter_append, List.length_append]
    omega

theorem Receives.trans {s u t : State} {frames more : List CanFrame} (hsu : Receives s u frames)
    (hut : Receives u t more) : Receives s t (frames ++ more) where
  qcap := hut.qcap.trans hsu.qcap
  params := hut.params.trans hsu.params
  devq := by rw [hsu.devq, hut.devq, List.append_assoc]
  q := by rw [hut.q, hsu.qcap, hsu.q, lastN_lastN_append, List.append_assoc]
  received := by rw [hut.received, hsu.received, List.length_append, Nat.add_assoc]
  dropped := by
    rw [hut.dropped, hsu.dropped, hsu.q, hsu.qcap, length_lastN, List.length_append, List.length_append]
    omega
  overflows := by
    have hfirst := hsu.overflows
    have hthen := hut.overflows
    rw [hsu.params] at hthen
    omega

/-- One turn per frame of the device: by induction on the frames, the first turn being a push. -/
theorem execAll_threadSteps (frames : List CanFrame) (s : State) (hthread : s.can.thread = .active)
    (hflag : s.can.running = true) (hcap : 1 ≤ s.can.qcap) (hq : s.can.q.length ≤ s.can.qcap) (hdevq : s.can.devq = frames) :
    ∃ t, execAll (List.replicate frames.length .canThreadStep) s = .next t ∧ Receives s t frames := by
  induction frames generalizing s with
  | nil => exact ⟨s, rfl, receives_nil hq⟩
  | cons f rest ih =>
    have hpush := receives_pushes hdevq hcap hq
    have hturn : exec .canThreadStep s = .next (s.pushes f rest) := by
      rw [exec_canThreadStep_of_running ((s.can.stepEnabled_iff s.now).2 (.inl hthread)) hflag, threadTurn_of_frame hdevq]
    obtain ⟨hqcap, -, -, hrunning⟩ := s.can.enqueue_frame f
    obtain ⟨t, hrest, hreceives⟩ := ih (s.pushes f rest) rfl (hrunning.trans hflag) (hqcap.symm ▸ hcap)
      (hqcap.symm ▸ s.can.enqueue_length_le f hcap hq) rfl
    exact ⟨t, (execAll_cons _ hturn).trans hrest, hpush.trans hreceives⟩

end Sys2Proof.Machine

/-- Settles O24: the turns receive the frames of the device, and the law from an empty queue and zero counters is R214's. -/
theorem queueKeepsTheNewestFrames : Obligations.QueueKeepsTheNewestFrames := by
  intro s frames hthread hflag hq hreceived hdropped hcap hdevq
  obtain ⟨t, hrun, h⟩ := execAll_threadSteps frames s hthread hflag hcap (by simp [hq]) hdevq
  have hdrops : t.can.dropped = frames.length - s.can.qcap := by simpa [hq, hdropped] using h.dropped
  refine ⟨t, hrun, ?queue, ?received, hdrops, ?device, ?overflows⟩
  case queue => simpa [hq, lastN] using h.q
  case received => simpa [hreceived] using h.received
  case device => simpa [hdevq] using h.devq
  case overflows => simpa [hdropped, hdrops, State.overflows] using h.overflows
end

section
/-! Frames cut by silence, and frames for other units (43_frame_parser.md R231, R232, R238): what `SlaveRx` and `GapFire` do in
each case, a completed frame being the operation it decodes to. -/
open Sys2Proof Sys2Proof.Machine Sys2Proof.Claims

namespace Sys2Proof.Machine

/-- `s` with the assembly buffer and the gap timer cleared (R232). -/
def State.gapCleared (s : State) : State := { s with sl := { s.sl with asm := [], gapArmed := false } }

/-- A frame that decodes is executed as its operation (R260). -/
theorem slaveProcess_of_decode {s : State} {frame : List Byte} {i : Instr} (h : slaveDecode frame = some i) :
    exec i s = .next (s.slaveProcess frame) := by
  obtain ⟨p, rfl, rfl⟩ := rtuFrame_of_slaveDecode h
  rw [exec_slaveInstr]
  unfold State.slaveProcess
  simp only [rtuCheck, rtuOpen_rtuFrame]
  by_cases hunit : p.unit = s.sl.addr
  · simp only [if_pos hunit]
  · simp only [if_neg hunit]

/-- Bytes that do not decode vanish (R230). -/
theorem slaveProcess_of_undecodable {s : State} {frame : List Byte} (h : slaveDecode frame = none) :
    s.slaveProcess frame = s := by
  unfold State.slaveProcess
  split
  · rfl
  · rename_i p hp
    exact absurd ((rtuCheck_eq_ok hp).1.symm.trans h) (by simp)

theorem Slave.gapExpired_iff (sl : Slave) (now : Nat) :
    sl.gapExpired now = true ↔ sl.gapArmed = true ∧ sl.gapDeadline ≤ now := by
  simp [Slave.gapExpired]

theorem Slave.rxEnabled_iff (sl : Slave) : sl.rxEnabled = true ↔ sl.bs.state = .opened ∧ sl.bs.rb ≠ [] := by
  simp [Slave.rxEnabled, Channel.isOpen_iff]

section
variable {s : State}

theorem exec_slSlaveRx_of_bytes (hopen : s.sl.bs.state = .opened) (hrb : s.sl.bs.rb ≠ []) :
    exec .slSlaveRx s = .next { s with sl := { s.sl with
      bs := { s.sl.bs with rb := [] }
      asm := s.sl.asm ++ s.sl.bs.rb
      gapArmed := true
      gapDeadline := s.now + s.sl.gapMs } } := by
  have hdrained : s.sl.bs.drained = { s.sl.bs with rb := [] } := if_pos ((Channel.isOpen_iff _).2 hopen)
  simp only [exec, execSlSlaveRx, if_pos ((Slave.rxEnabled_iff _).2 ⟨hopen, hrb⟩), hdrained,
    Channel.available_of_open hopen]

theorem exec_slSlaveRx_of_not_enabled (h : ¬ s.sl.rxEnabled = true) : exec .slSlaveRx s = .next s := by
  simp only [exec, execSlSlaveRx, if_neg h]

theorem exec_slGapFire_of_expired (h : s.sl.gapExpired s.now = true) :
    exec .slGapFire s = .next (s.gapCleared.slaveProcess s.sl.asm) := by
  simp only [exec, execSlGapFire, if_pos h, State.gapCleared]

theorem exec_slGapFire_of_not_expired (h : ¬ s.sl.gapExpired s.now = true) : exec .slGapFire s = .next s := by
  simp only [exec, execSlGapFire, if_neg h]

end

/-- A wire operation for another unit is silent (R238). -/
theorem exec_slaveInstr_of_other_unit {s : State} {p : RtuPdu} (h : p.unit ≠ s.sl.addr) :
    exec (slaveInstr p) s = .next s := by
  rw [exec_slaveInstr, if_neg h]

end Sys2Proof.Machine

/-- Settles O31: with the timer expired, `GapFire` processes the assembled bytes in the cleared state, and processing a frame is
executing what it decodes to. -/
theorem slaveCutsFramesBySilence : Obligations.SlaveCutsFramesBySilence := by
  intro s
  refine ⟨exec_slSlaveRx_of_bytes, fun h => exec_slSlaveRx_of_not_enabled ?noBytes, fun harmed hdue => ?fires,
    fun h => exec_slGapFire_of_not_expired ?waits⟩
  case noBytes =>
    rw [Slave.rxEnabled_iff]
    rintro ⟨hopen, hrb⟩
    exact h.elim (· hopen) hrb
  case fires =>
    have hfires := exec_slGapFire_of_expired ((Slave.gapExpired_iff _ _).2 ⟨harmed, hdue⟩)
    refine ⟨fun i hi => ?_, fun hnone => ?_⟩
    · exact hfires.trans (slaveProcess_of_decode hi).symm
    · rw [hfires, slaveProcess_of_undecodable hnone]
      rfl
  case waits =>
    rw [Slave.gapExpired_iff]
    rintro ⟨harmed, hdue⟩
    rcases h with hoff | hearly
    · exact absurd (harmed.symm.trans hoff) (by decide)
    · omega

/-- Settles O30: every wire operation of the slave tests the unit address first, and a completed frame is such an operation. -/
theorem framesForOtherUnitsVanish : Obligations.FramesForOtherUnitsVanish := by
  intro s unit fc data hunit
  have hsilent : ∀ fc, exec (slaveInstr ⟨unit, fc, data⟩) s = .next s := fun fc => exec_slaveInstr_of_other_unit hunit
  refine ⟨hsilent 0x03#8, hsilent 0x04#8, hsilent 0x06#8, hsilent 0x10#8, congrArg _ (if_neg hunit),
    fun harmed hdue hasm => ?fires⟩
  have hdecode : slaveDecode s.sl.asm = some (slaveInstr ⟨unit, fc, data⟩) := hasm ▸ slaveDecode_rtuFrame unit fc data
  rw [exec_slGapFire_of_expired ((Slave.gapExpired_iff _ _).2 ⟨harmed, hdue⟩), ← slaveProcess_of_decode hdecode]
  exact exec_slaveInstr_of_other_unit (s := s.gapCleared) hunit
end

section
/-! The frame parser (43_frame_parser.md R239 to R243; 45_masters.md R306): the RTU checks, the length and the class of a
response, the TCP delimiter and the loop over a stream. -/
open Sys2Proof Sys2Proof.Machine Sys2Proof.Claims

namespace Sys2Proof

/-! The RTU checks, in order (R239). -/

section
variable {frame : List Byte} {a : Byte}

theorem rtuCheck_of_short (h : frame.length < 4) : rtuCheck frame a = .error .tooShort := by
  simp only [rtuCheck, rtuOpen, if_pos h]

theorem rtuCheck_of_bad_crc (hlen : 4 ≤ frame.length) (hcrc : ¬ rtuCrcOk frame = true) :
    rtuCheck frame a = .error .badCrc := by
  simp only [rtuCheck, rtuOpen, if_neg (Nat.not_lt.2 hlen), if_neg hcrc]

theorem rtuOpen_of_crc_ok (hlen : 4 ≤ frame.length) (hcrc : rtuCrcOk frame = true) :
    rtuOpen frame = .ok (rtuFields frame) := by
  simp only [rtuOpen, if_neg (Nat.not_lt.2 hlen), if_pos hcrc]

theorem rtuCheck_of_other_unit {p : RtuPdu} (hopen : rtuOpen frame = .ok p) (h : p.unit ≠ a) :
    rtuCheck frame a = .error .otherUnit := by
  simp only [rtuCheck, hopen, if_neg h]

theorem rtuCheck_of_same_unit {p : RtuPdu} (hopen : rtuOpen frame = .ok p) (h : p.unit = a) : rtuCheck frame a = .ok p := by
  simp only [rtuCheck, hopen, if_pos h]

end

/-- The unit address of a frame is its first byte (R90). -/
theorem getElem?_zero_of_rtuOpen {frame : List Byte} {p : RtuPdu} (h : rtuOpen frame = .ok p) : frame[0]? = some p.unit := by
  rw [eq_rtuFrame_of_rtuOpen frame p h]
  rfl

/-! The length of a response and the class of a PDU (R306, R240). -/

theorem rtuComplete_of_short {buf : List Byte} (h : buf.length < 3) : rtuComplete buf = none := by
  match buf, h with
  | [], _ | [_], _ | [_, _], _ => rfl

theorem exceptionBit_iff (fc : Byte) : exceptionBit fc = true ↔ fc &&& 0x80#8 ≠ 0#8 := by
  have hmask : fc &&& 0x80#8 = if exceptionBit fc then 0x80#8 else 0#8 := BitVec.and_twoPow fc 7
  cases h : exceptionBit fc <;> simp [hmask, h]

section
variable (unit n : Byte) {fc : Byte} (rest : List Byte)

theorem rtuComplete_of_exception (h : exceptionBit fc = true) :
    rtuComplete (unit :: fc :: n :: rest) = if 5 ≤ 3 + rest.length then some 5 else none := by
  simp only [rtuComplete, h, if_true, List.length_cons, Nat.add_comm 3]

/-- A response that counts its data bytes: the four reads. -/
theorem rtuComplete_of_read (h : fc = 0x01#8 ∨ fc = 0x02#8 ∨ fc = 0x03#8 ∨ fc = 0x04#8) :
    rtuComplete (unit :: fc :: n :: rest) =
      if 3 + n.toNat + 2 ≤ 3 + rest.length then some (3 + n.toNat + 2) else none := by
  have hbit : ¬ exceptionBit fc = true := by rcases h with rfl | rfl | rfl | rfl <;> decide
  simp only [rtuComplete, if_neg hbit, if_pos h, List.length_cons, Nat.add_comm 3 rest.length]

/-- A response of fixed length: the four writes. -/
theorem rtuComplete_of_write (h : fc = 0x05#8 ∨ fc = 0x06#8 ∨ fc = 0x0F#8 ∨ fc = 0x10#8) :
    rtuComplete (unit :: fc :: n :: rest) = if 8 ≤ 3 + rest.length then some 8 else none := by
  rcases h with rfl | rfl | rfl | rfl <;> simp [rtuComplete, exceptionBit, Nat.add_comm 3]

theorem rtuComplete_of_unknown (hbit : exceptionBit fc = false)
    (h : fc ∉ [0x01#8, 0x02#8, 0x03#8, 0x04#8, 0x05#8, 0x06#8, 0x0F#8, 0x10#8]) :
    rtuComplete (unit :: fc :: n :: rest) = none := by
  simp only [List.mem_cons, List.not_mem_nil, or_false, not_or] at h
  obtain ⟨h01, h02, h03, h04, h05, h06, h0F, h10⟩ := h
  simp [rtuComplete, *]

end

theorem pduClass_of_exception {fc : Byte} (h : exceptionBit fc = true) (code : Byte) (more : List Byte) :
    pduClass fc (code :: more) = .exception (fc &&& 0x7F#8) code := by
  simp only [pduClass, h]

theorem pduClass_of_normal {fc : Byte} (h : exceptionBit fc = false) (data : List Byte) :
    pduClass fc data = .normal fc data := by
  simp only [pduClass, h]

/-! The TCP delimiter (R241, R242). -/

/-- The number of bytes the length field of a buffer announces (R91). -/
def mbapLength (buf : List Byte) : Nat := (be16 (buf.getD 4 0#8) (buf.getD 5 0#8)).toNat

/-- The length field is in the first six bytes. -/
theorem mbapLength_append {buf : List Byte} (more : List Byte) (h : 6 ≤ buf.length) :
    mbapLength (buf ++ more) = mbapLength buf := by
  rw [mbapLength, List.getD_append buf more _ 4 (by omega), List.getD_append buf more _ 5 (by omega), mbapLength]

/-- A frame as long as its length field says is cut from what follows it. -/
theorem mbapSplit_of_whole {frame : List Byte} (rest : List Byte) (h : frame.length = 6 + mbapLength frame) :
    mbapSplit (frame ++ rest) = some (frame, rest) := by
  have hlength := mbapLength_append rest (show 6 ≤ frame.length by omega)
  unfold mbapLength at hlength h
  simp only [mbapSplit, hlength, List.length_append, ← h]
  rw [if_neg (by omega), if_neg (by omega), List.take_left, List.drop_left]

/-- A beginning of such a frame is waited on. -/
theorem mbapSplit_of_part {part : List Byte} (more : List Byte) (hmore : more ≠ [])
    (h : (part ++ more).length = 6 + mbapLength (part ++ more)) : mbapSplit part = none := by
  have hpos := List.length_pos_iff.2 hmore
  rw [List.length_append] at h
  by_cases hheader : part.length < 6
  · simp only [mbapSplit, if_pos hheader]
  · rw [mbapLength_append more (by omega)] at h
    unfold mbapLength at h
    simp only [mbapSplit, if_neg hheader]
    exact if_pos (by omega)

theorem length_tcpFrame (txn : Word) (unit fc : Byte) (data : List Byte) :
    (tcpFrame txn unit fc data).length = 8 + data.length := by
  rw [Nat.add_comm]
  rfl

/-- The framing writes the length the delimiter reads. -/
theorem mbapLength_tcpFrame (txn : Word) (unit fc : Byte) (data : List Byte) (h : data.length + 2 < 65536) :
    mbapLength (tcpFrame txn unit fc data) = data.length + 2 := by
  change (be16 (hi8 _) (lo8 _)).toNat = _
  rw [be16_hi8_lo8, BitVec.toNat_ofNat, Nat.mod_eq_of_lt h]

theorem mbapFields_tcpFrame (txn : Word) (unit fc : Byte) (data : List Byte) :
    mbapFields (tcpFrame txn unit fc data) = ⟨txn, 0#16, BitVec.ofNat 16 (data.length + 2), unit, fc, data⟩ := by
  have hproto : be16 0x00#8 0x00#8 = 0#16 := by decide
  change MbapFields.mk (be16 (hi8 txn) (lo8 txn)) (be16 0x00#8 0x00#8) (be16 (hi8 _) (lo8 _)) unit fc data = _
  rw [be16_hi8_lo8, be16_hi8_lo8, hproto]

/-! The loop over a stream (R243, R323). -/

section
variable {accept : List Byte → Option (Byte × List Byte)}

theorem mbapScanFuel_of_part {part : List Byte} (fuel : Nat) (h : mbapSplit part = none) :
    mbapScanFuel accept fuel part = ⟨none, part⟩ := by
  cases fuel with
  | zero => rfl
  | succ fuel => simp only [mbapScanFuel, h]

theorem mbapScanFuel_of_accepted {good rest : List Byte} {m : Byte × List Byte} (fuel : Nat)
    (hcut : mbapSplit (good ++ rest) = some (good, rest)) (h : accept good = some m) :
    mbapScanFuel accept (fuel + 1) (good ++ rest) = ⟨some m, rest⟩ := by
  simp only [mbapScanFuel, hcut, h]

/-- Whole frames that are not accepted are consumed, one a turn. -/
theorem mbapScanFuel_skips (bad : List (List Byte)) (buf : List Byte) (fuel : Nat)
    (h : ∀ f ∈ bad, (∀ more, mbapSplit (f ++ more) = some (f, more)) ∧ accept f = none) :
    mbapScanFuel accept (fuel + bad.length) (bad.flatten ++ buf) = mbapScanFuel accept fuel buf := by
  induction bad with
  | nil => rfl
  | cons f bad ih =>
    obtain ⟨⟨hcut, hf⟩, hbad⟩ := List.forall_mem_cons.1 h
    rw [List.flatten_cons, List.append_assoc, List.length_cons, ← Nat.add_assoc]
    simp only [mbapScanFuel, hcut, hf]
    exact ih hbad

end

/-- A frame that the delimiter cuts is not empty. -/
theorem length_pos_of_cut {frame : List Byte} (h : ∀ more, mbapSplit (frame ++ more) = some (frame, more)) :
    1 ≤ frame.length := by
  obtain ⟨-, hlen, -⟩ := mbapSplit_cuts (h [])
  omega

/-- A stream is at least as long as the number of frames it begins with. -/
theorem length_le_flatten {frames : List (List Byte)}
    (h : ∀ f ∈ frames, ∀ more, mbapSplit (f ++ more) = some (f, more)) : frames.length ≤ frames.flatten.length := by
  rw [List.length_flatten, ← List.length_map (f := List.length)]
  refine List.length_le_sum_of_one_le _ fun n hn => ?_
  obtain ⟨f, hf, rfl⟩ := List.mem_map.1 hn
  exact length_pos_of_cut (h f hf)

end Sys2Proof

/-- Settles O35: one rule per check, and a frame that opens is the frame of format RTU of its fields. -/
theorem rtuChecksInOrder : Obligations.RtuChecksInOrder := by
  intro frame a
  simp only [← rtuCrcOk_iff]
  refine ⟨rtuCheck_of_short, rtuCheck_of_bad_crc, fun hlen hcrc hunit => ?other, fun hlen hcrc hunit => ?accepted⟩
  all_goals
    have hopen := rtuOpen_of_crc_ok hlen hcrc
    rw [getElem?_zero_of_rtuOpen hopen] at hunit
  case other => exact rtuCheck_of_other_unit hopen fun h => hunit (congrArg some h)
  case accepted =>
    obtain rfl := Option.some.inj hunit
    exact ⟨_, _, _, _, eq_rtuFrame_of_rtuOpen frame _ hopen, rtuCheck_of_same_unit hopen rfl⟩

/-- Settles O36: the function codes in their classes, and the exception bit as a mask. -/
theorem responseLengthsAndClasses : Obligations.ResponseLengthsAndClasses := by
  refine ⟨fun buf => rtuComplete_of_short, fun unit fc n rest =>
    ⟨rtuComplete_of_exception unit n rest, rtuComplete_of_read unit n rest, rtuComplete_of_write unit n rest,
      rtuComplete_of_unknown unit n rest⟩, fun fc code data => ⟨fun h => ?exception, fun h => ?normal⟩⟩
  case exception => exact pduClass_of_exception ((exceptionBit_iff fc).2 h) code data
  case normal => exact pduClass_of_normal (Bool.eq_false_iff.2 fun hbit => (exceptionBit_iff fc).1 hbit h) data

/-- Settles O37: the frame is the model's own framing, whose length field announces exactly the bytes after it. -/
theorem mbapSplitCutsWholeFrames : Obligations.MbapSplitCutsWholeFrames := by
  intro txn unit fc data rest hlen
  have hwhole : (tcpFrame txn unit fc data).length = 6 + mbapLength (tcpFrame txn unit fc data) := by
    rw [length_tcpFrame, mbapLength_tcpFrame txn unit fc data hlen]
    omega
  refine ⟨mbapSplit_of_whole rest hwhole, mbapFields_tcpFrame txn unit fc data, fun n hn => ?part⟩
  refine mbapSplit_of_part ((tcpFrame txn unit fc data).drop n) ?missing ?whole
  case missing => exact List.ne_nil_of_length_pos (by rw [List.length_drop]; exact Nat.sub_pos_of_lt hn)
  case whole => exact (List.take_append_drop n (tcpFrame txn unit fc data)).symm ▸ hwhole

/-- Settles O38: the loop consumes one frame that does not match a turn, and a stream has turns enough. -/
theorem mismatchingTcpFramesAreSkipped : Obligations.MismatchingTcpFramesAreSkipped := by
  intro bad t u hbad
  have hcount := length_le_flatten fun f hf => (hbad f hf).1
  refine ⟨fun good rest fc data hcut hmatch => ?found, fun part hpart => ?none⟩
  case found =>
    have hgood := length_pos_of_cut hcut
    obtain ⟨fuel, hfuel⟩ : ∃ fuel, (bad.flatten ++ good ++ rest).length = fuel + 1 + bad.length :=
      ⟨(bad.flatten ++ good ++ rest).length - 1 - bad.length, by simp only [List.length_append]; omega⟩
    rw [mbapScan, hfuel, List.append_assoc, mbapScanFuel_skips bad _ _ hbad]
    exact mbapScanFuel_of_accepted fuel (hcut rest) hmatch
  case none =>
    obtain ⟨fuel, hfuel⟩ : ∃ fuel, (bad.flatten ++ part).length = fuel + bad.length :=
      ⟨(bad.flatten ++ part).length - bad.length, by simp only [List.length_append]; omega⟩
    rw [mbapScan, hfuel, mbapScanFuel_skips bad _ _ hbad]
    exact mbapScanFuel_of_part fuel hpart
end

section
/-! How an outstanding request ends (45_masters.md R307 to R309): what `Judge` and `Decode` answer, in the words of the claims,
and the state a judged response leaves on either master. -/
open Sys2Proof Sys2Proof.Machine Sys2Proof.Claims

namespace Sys2Proof.Machine

/-! Decoding (R308). -/

theorem dataBlock_of_length {block : List Byte} {bc : Byte} (n : Nat) (hbc : bc.toNat = n) (hlen : block.length = n) :
    dataBlock n (bc :: block) = some block := by
  rw [dataBlock, if_pos ⟨hbc, hlen⟩]

/-- A data block is there exactly when the byte count and the length are the number of bytes asked for. -/
theorem dataBlock_eq (n : Nat) (data : List Byte) :
    dataBlock n data = if data.length = 1 + n ∧ (data.getD 0 0#8).toNat = n then some data.tail else none := by
  cases data with
  | nil => exact (if_neg fun ⟨hlen, _⟩ => absurd (hlen.trans (Nat.add_comm 1 n)) (by simp)).symm
  | cons bc block => simp [dataBlock, and_comm, Nat.add_comm 1]

/-- Register `i` of a data block stands at the bytes `2 i` and `2 i + 1` (R100). -/
theorem bytesToWords_eq_map (count : Nat) (block : List Byte) (h : block.length = 2 * count) :
    bytesToWords block =
      (List.range count).map fun i => be16 (block.getD (2 * i) 0#8) (block.getD (2 * i + 1) 0#8) := by
  induction count generalizing block with
  | zero => rw [List.eq_nil_of_length_eq_zero h]; rfl
  | succ count ih =>
    match block, h with
    | hi :: lo :: block, h =>
      simp only [List.length_cons] at h
      rw [bytesToWords, ih block (by omega), List.range_succ_eq_map, List.map_cons, List.map_map]
      rfl

theorem coilAnswer_eq (count : Nat) (data : List Byte) :
    coilAnswer count data =
      (((dataBlock (bitBytes count) data).map fun block => Result.bools (unpackBits count block)).getD (.bools [])) := by
  rw [dataBlock_eq, coilAnswer]
  change (if data.length = 1 + bitBytes count ∧ (data.getD 0 0#8).toNat = bitBytes count then _ else _) = _
  split
  · rename_i h
    cases data with
    | nil => exact absurd (h.1.trans (Nat.add_comm 1 _)) (by simp)
    | cons bc block => simp [unpackBits, Nat.add_comm 1]
  · rfl

theorem registerAnswer_eq (count : Nat) (data : List Byte) :
    registerAnswer count data =
      (((dataBlock (2 * count) data).map fun block => Result.words (bytesToWords block)).getD (.words [])) := by
  rw [dataBlock_eq, registerAnswer]
  split
  · rename_i h
    cases data with
    | nil => exact absurd (h.1.trans (Nat.add_comm 1 _)) (by simp)
    | cons bc block =>
      have hlen : block.length = 2 * count := by simpa [Nat.add_comm 1] using h.1
      simp [bytesToWords_eq_map count block hlen, Nat.add_comm 1, Nat.add_comm 2]
  · rfl

theorem echoAnswer_eq (req : ReqParams) (data : List Byte) :
    echoAnswer req.first req.second data =
      (if data = req.echo then some (Result.bool true) else none).getD (.bool false) := by
  change Result.bool (decide (data = req.echo)) = _
  split <;> simp [*]

/-- What the caller gets for a normal response with the function code asked: the decoded result, or else the failure result. -/
theorem answer_same (ctx : TransactionContext) (data : List Byte) :
    answer ctx ctx.fc data = (decodeResponse ctx data).getD ctx.fc.failure := by
  unfold answer decodeResponse
  rw [if_pos rfl]
  cases ctx.fc
  case readCoils | readDiscreteInputs => exact coilAnswer_eq ..
  case readHoldingRegisters | readInputRegisters => exact registerAnswer_eq ..
  case writeSingleCoil | writeSingleRegister | writeMultipleCoils | writeMultipleRegisters => exact echoAnswer_eq ..

/-! The judgement of a response (R307). -/

/-- An exception response without its code is a failure, and nothing is surfaced. -/
theorem judge_exception_nil (ctx : TransactionContext) (fc : Byte) (h : exceptionBit fc = true) :
    judge ctx fc [] = ⟨none, .failure .checksumError⟩ := by
  simp [judge, pduClass, h]

/-- A normal response surfaces no exception, and its result is the answer to the request. -/
theorem judge_code (ctx : TransactionContext) (fc : FunctionCode) (data : List Byte) :
    (judge ctx fc.code data).exception = none ∧ resultOf ctx (judge ctx fc.code data).outcome = answer ctx fc data := by
  by_cases hfc : fc = ctx.fc
  · subst hfc
    rw [judge_same, answer_same]
    cases decodeResponse ctx data <;> exact ⟨rfl, rfl⟩
  · rw [judge_other ctx fc.code data (exceptionBit_code fc) (mt (code_injective _ _) hfc)]
    unfold answer
    rw [if_neg hfc]
    exact ⟨rfl, rfl⟩

/-! The end of a request (R309). -/

theorem rtuFinish_eq_rtuEnded (s : State) (ctx : TransactionContext) (outcome : RequestOutcome) :
    s.rtuFinish ctx outcome = rtuEnded s ctx (resultOf ctx outcome) :=
  State.ret_eq_traced ..

theorem tcpFinish_eq_tcpEnded (s : State) (ctx : TransactionContext) (rest : List Byte) (outcome : RequestOutcome) :
    s.tcpFinish ctx rest outcome = tcpEnded s ctx rest (resultOf ctx outcome) :=
  State.ret_eq_traced ..

section
variable (s : State) (ctx : TransactionContext) (rest : List Byte) {fc : Byte}

theorem rtuConclude_of_no_exception {data : List Byte} (h : (judge ctx fc data).exception = none) :
    s.rtuConclude ctx fc data = rtuEnded s ctx (resultOf ctx (judge ctx fc data).outcome) := by
  simp only [State.rtuConclude, h, rtuFinish_eq_rtuEnded]

theorem tcpConclude_of_no_exception {data : List Byte} (h : (judge ctx fc data).exception = none) :
    s.tcpConclude ctx rest fc data = tcpEnded s ctx rest (resultOf ctx (judge ctx fc data).outcome) := by
  simp only [State.tcpConclude, h, tcpFinish_eq_tcpEnded]

theorem rtuConclude_of_exception (h : exceptionBit fc = true) (code : Byte) (more : List Byte) :
    s.rtuConclude ctx fc (code :: more) =
      rtuEnded (traced s [⟨.rtuMaster, .modbusException (fc &&& 0x7F#8) code⟩] []) ctx ctx.fc.failure := by
  simp only [State.rtuConclude, judge_exception ctx fc code more h, State.notify_eq_traced, rtuFinish_eq_rtuEnded, resultOf]

theorem tcpConclude_of_exception (h : exceptionBit fc = true) (code : Byte) (more : List Byte) :
    s.tcpConclude ctx rest fc (code :: more) =
      tcpEnded (traced s [⟨.tcpMaster, .modbusException (fc &&& 0x7F#8) code⟩] []) ctx rest ctx.fc.failure := by
  simp only [State.tcpConclude, judge_exception ctx fc code more h, State.notify_eq_traced, tcpFinish_eq_tcpEnded, resultOf]

theorem rtuConclude_code (fc : FunctionCode) (data : List Byte) :
    s.rtuConclude ctx fc.code data = rtuEnded s ctx (answer ctx fc data) := by
  obtain ⟨hnone, hanswer⟩ := judge_code ctx fc data
  rw [rtuConclude_of_no_exception s ctx hnone, hanswer]

theorem tcpConclude_code (fc : FunctionCode) (data : List Byte) :
    s.tcpConclude ctx rest fc.code data = tcpEnded s ctx rest (answer ctx fc data) := by
  obtain ⟨hnone, hanswer⟩ := judge_code ctx fc data
  rw [tcpConclude_of_no_exception s ctx rest hnone, hanswer]

/-- An exception response without its code. -/
theorem tcpConclude_of_exception_nil (h : exceptionBit fc = true) :
    s.tcpConclude ctx rest fc [] = tcpEnded s ctx rest ctx.fc.failure := by
  have hjudge := judge_exception_nil ctx fc h
  rw [tcpConclude_of_no_exception s ctx rest (by rw [hjudge]), hjudge, resultOf]

/-- A response with another function code. -/
theorem tcpConclude_of_other (h : exceptionBit fc = false) (hfc : fc ≠ ctx.fc.code) (data : List Byte) :
    s.tcpConclude ctx rest fc data = tcpEnded s ctx rest ctx.fc.failure := by
  have hjudge := judge_other ctx fc data h hfc
  rw [tcpConclude_of_no_exception s ctx rest (by rw [hjudge]), hjudge, resultOf]

end

end Sys2Proof.Machine
end

section
/-! The wire rows of the masters (30_encoding.md R110; log 15): a response or an exception response ends the outstanding request,
or is ignored when no request can take it. -/
open Sys2Proof Sys2Proof.Machine Sys2Proof.Claims

namespace Sys2Proof.Machine

/-! The outstanding request (R305, R323). -/

theorem RtuMaster.pending_of_awaiting {m : RtuMaster} (h : m.state = .awaitingResponse) : m.pending = m.ctx := by
  simp [RtuMaster.pending, RtuMaster.isIdle, h]

theorem TcpMaster.pending_of_awaiting {m : TcpMaster} (h : m.state = .awaitingResponse) : m.pending = m.ctx := by
  simp [TcpMaster.pending, TcpMaster.isIdle, h]

theorem RtuMaster.pending_of_idle {m : RtuMaster} (h : m.state = .idle) : m.pending = none := by
  simp [RtuMaster.pending, RtuMaster.isIdle, h]

theorem TcpMaster.pending_of_idle {m : TcpMaster} (h : m.state = .idle) : m.pending = none := by
  simp [TcpMaster.pending, TcpMaster.isIdle, h]

/-- The header test of R243 is the comparison with the request's header. -/
theorem headerMatches_iff (h : TcpHeader) (t : Word) (u : Byte) :
    headerMatches h.txn h.proto h.unit t u = true ↔ h = ⟨t, 0#16, u⟩ := by
  cases h
  simp [headerMatches, and_assoc]

section
variable {Req : Type} {s : State} {ctx : TransactionContext} (fc : FunctionCode) (request : Req → Request)
  (data : List Byte)

theorem rtuWire_of_response (hstate : s.rm.state = .awaitingResponse) (hctx : s.rm.ctx = some ctx)
    (hlive : ctx.lost = false) :
    s.rtuWire fc request (.response ctx.addr data) = rtuEnded s ctx (answer ctx fc data) := by
  simp only [State.rtuWire, RtuMaster.pending_of_awaiting hstate, hctx, hlive, and_self, if_true, rtuConclude_code]

/-- A response the outstanding request, if there is one, does not take. -/
theorem rtuWire_ignores {unit : Byte} (h : ∀ ctx, s.rm.pending = some ctx → ctx.lost = true ∨ unit ≠ ctx.addr) :
    s.rtuWire fc request (.response unit data) = s := by
  unfold State.rtuWire
  cases hpending : s.rm.pending with
  | none => rfl
  | some ctx => exact if_neg fun ⟨hlive, hunit⟩ => (h ctx hpending).elim (by simp [hlive]) (· hunit)

theorem tcpWire_of_response (hstate : s.tm.state = .awaitingResponse) (hctx : s.tm.ctx = some ctx)
    (hlive : ctx.lost = false) :
    s.tcpWire fc request (.response ⟨ctx.txn, 0#16, ctx.addr⟩ data) = tcpEnded s ctx ctx.resp (answer ctx fc data) := by
  have hmatch := (headerMatches_iff ⟨ctx.txn, 0#16, ctx.addr⟩ ctx.txn ctx.addr).2 rfl
  simp only [State.tcpWire, TcpMaster.pending_of_awaiting hstate, hctx, hlive, hmatch, and_self, if_true, tcpConclude_code]

theorem tcpWire_ignores {h : TcpHeader}
    (hno : ∀ ctx, s.tm.pending = some ctx → ctx.lost = true ∨ h ≠ ⟨ctx.txn, 0#16, ctx.addr⟩) :
    s.tcpWire fc request (.response h data) = s := by
  unfold State.tcpWire
  cases hpending : s.tm.pending with
  | none => rfl
  | some ctx =>
    exact if_neg fun ⟨hlive, hmatch⟩ => (hno ctx hpending).elim (by simp [hlive]) (· ((headerMatches_iff h _ _).1 hmatch))

end

theorem exceptionBit_or_80 (fc : Byte) : exceptionBit (fc ||| 0x80#8) = true := by
  simp [exceptionBit]

section
variable {s : State} {ctx : TransactionContext} {fc : Byte} (code : Byte)

theorem rtuException_of_live (hfc : fc.getLsbD 7 = false) (hstate : s.rm.state = .awaitingResponse)
    (hctx : s.rm.ctx = some ctx) (hlive : ctx.lost = false) :
    s.rtuException fc code =
      rtuEnded (traced s [⟨.rtuMaster, .modbusException fc code⟩] []) ctx ctx.fc.failure := by
  simp only [State.rtuException, RtuMaster.pending_of_awaiting hstate, hctx, hlive, Bool.false_eq_true, if_false,
    rtuConclude_of_exception s ctx (exceptionBit_or_80 fc), exceptionCode_and_7F fc hfc]

theorem tcpException_of_live (hfc : fc.getLsbD 7 = false) (hstate : s.tm.state = .awaitingResponse)
    (hctx : s.tm.ctx = some ctx) (hlive : ctx.lost = false) :
    s.tcpException fc code =
      tcpEnded (traced s [⟨.tcpMaster, .modbusException fc code⟩] []) ctx ctx.resp ctx.fc.failure := by
  simp only [State.tcpException, TcpMaster.pending_of_awaiting hstate, hctx, hlive, Bool.false_eq_true, if_false,
    tcpConclude_of_exception s ctx _ (exceptionBit_or_80 fc), exceptionCode_and_7F fc hfc]

theorem rtuException_ignores (fc : Byte) (h : ∀ ctx, s.rm.pending = some ctx → ctx.lost = true) :
    s.rtuException fc code = s := by
  unfold State.rtuException
  cases hpending : s.rm.pending with
  | none => rfl
  | some ctx => exact if_pos (h ctx hpending)

theorem tcpException_ignores (fc : Byte) (h : ∀ ctx, s.tm.pending = some ctx → ctx.lost = true) :
    s.tcpException fc code = s := by
  unfold State.tcpException
  cases hpending : s.tm.pending with
  | none => rfl
  | some ctx => exact if_pos (h ctx hpending)

end

/-- A master whose request is not outstanding, or is one of the kind `P`, has no outstanding request of another kind. -/
theorem RtuMaster.pending_forall {m : RtuMaster} {P : TransactionContext → Prop}
    (h : m.state = .idle ∨ m.ctx = none ∨ ∃ ctx, m.ctx = some ctx ∧ P ctx) : ∀ ctx, m.pending = some ctx → P ctx := by
  intro ctx hpending
  have hctx := RtuMaster.ctx_of_pending hpending
  rcases h with hidle | hnone | ⟨_, hsome, hP⟩
  · simp [RtuMaster.pending_of_idle hidle] at hpending
  · simp [hnone] at hctx
  · rwa [Option.some.inj (hctx.symm.trans hsome)]

theorem TcpMaster.pending_forall {m : TcpMaster} {P : TransactionContext → Prop}
    (h : m.state = .idle ∨ m.ctx = none ∨ ∃ ctx, m.ctx = some ctx ∧ P ctx) : ∀ ctx, m.pending = some ctx → P ctx := by
  intro ctx hpending
  have hctx := TcpMaster.ctx_of_pending hpending
  rcases h with hidle | hnone | ⟨_, hsome, hP⟩
  · simp [TcpMaster.pending_of_idle hidle] at hpending
  · simp [hnone] at hctx
  · rwa [Option.some.inj (hctx.symm.trans hsome)]

end Sys2Proof.Machine

/-- Settles O48: the eight rows of a master are one rule over the function code. -/
theorem wireResponsesAreJudged : Obligations.WireResponsesAreJudged := by
  refine ⟨fun s unit data => ⟨?rtuEnds, fun h => ?rtuIgnores⟩, fun s h data => ⟨?tcpEnds, fun hno => ?tcpIgnores⟩⟩
  case rtuEnds =>
    rintro ctx hstate hctx hlive rfl
    refine ⟨?_, ?_, ?_, ?_, ?_, ?_, ?_, ?_⟩ <;> exact congrArg _ (rtuWire_of_response _ _ data hstate hctx hlive)
  case rtuIgnores =>
    have hpending := RtuMaster.pending_forall h
    refine ⟨?_, ?_, ?_, ?_, ?_, ?_, ?_, ?_⟩ <;> exact congrArg _ (rtuWire_ignores _ _ data hpending)
  case tcpEnds =>
    rintro ctx hstate hctx hlive rfl
    refine ⟨?_, ?_, ?_, ?_, ?_, ?_, ?_, ?_⟩ <;> exact congrArg _ (tcpWire_of_response _ _ data hstate hctx hlive)
  case tcpIgnores =>
    have hpending := TcpMaster.pending_forall hno
    refine ⟨?_, ?_, ?_, ?_, ?_, ?_, ?_, ?_⟩ <;> exact congrArg _ (tcpWire_ignores _ _ data hpending)

/-- Settles O49: the exception bit set again makes the response an exception, whatever its code. -/
theorem exceptionResponsesAreSurfaced : Obligations.ExceptionResponsesAreSurfaced := by
  intro s fc code hfc
  refine ⟨fun ctx hstate hctx hlive => congrArg _ (rtuException_of_live code hfc hstate hctx hlive),
    fun ctx hstate hctx hlive => congrArg _ (tcpException_of_live code hfc hstate hctx hlive),
    fun h => congrArg _ (rtuException_ignores code fc (RtuMaster.pending_forall (h.imp_right .inr))),
    fun h => congrArg _ (tcpException_ignores code fc (TcpMaster.pending_forall (h.imp_right .inr)))⟩
end

section
/-! One turn of the TCP master's wait loop (45_masters.md R323), and what the other operations leave of a request whose
connection has ended (R326, R328). -/
open Sys2Proof Sys2Proof.Machine Sys2Proof.Claims

namespace Sys2Proof.Machine

section
variable {s : State} {ctx : TransactionContext}

theorem exec_tmTcpPoll_of_idle (hstate : s.tm.state = .idle) : exec .tmTcpPoll s = .next s := by
  simp only [exec, execTmTcpPoll, TcpMaster.pending_of_idle hstate]

theorem exec_tmTcpPoll_of_found {fc : Byte} {data rest : List Byte} (hstate : s.tm.state = .awaitingResponse)
    (hctx : s.tm.ctx = some ctx) (hscan : ctx.scan (ctx.resp ++ s.tm.rxs) = ⟨some (fc, data), rest⟩) :
    exec .tmTcpPoll s = .next ((s.tcpGather ctx rest).tcpConclude ctx rest fc data) := by
  simp only [exec, execTmTcpPoll, TcpMaster.pending_of_awaiting hstate, hctx, hscan]

theorem exec_tmTcpPoll_of_none {rest : List Byte} (hstate : s.tm.state = .awaitingResponse) (hctx : s.tm.ctx = some ctx)
    (hscan : ctx.scan (ctx.resp ++ s.tm.rxs) = ⟨none, rest⟩) :
    exec .tmTcpPoll s = .next ((s.tcpGather ctx rest).tcpDeadline ctx rest) := by
  simp only [exec, execTmTcpPoll, TcpMaster.pending_of_awaiting hstate, hctx, hscan]

/-- At its deadline a request ends with the failure result (R322). -/
theorem tcpDeadline_of_due (rest : List Byte) (h : ctx.deadline ≤ s.now) :
    s.tcpDeadline ctx rest = tcpEnded s ctx rest ctx.fc.failure := by
  rw [State.tcpDeadline, if_pos h, tcpFinish_eq_tcpEnded, resultOf]

theorem tcpDeadline_of_early (rest : List Byte) (h : s.now < ctx.deadline) : s.tcpDeadline ctx rest = s :=
  if_neg (Nat.not_le.2 h)

/-! A request that has lost its connection. -/

theorem TransactionContext.lose_of_lost (hlost : ctx.lost = true) : ctx.lose = ctx := by
  cases ctx
  simp_all [TransactionContext.lose]

/-- No request is sent while one is outstanding (R321). -/
theorem TcpMaster.refuses_of_awaiting {m : TcpMaster} (hstate : m.state = .awaitingResponse) (q : Request) :
    m.refuses q = true := by
  simp [tcpMaster_refuses_iff, hstate]

theorem tcpCall_of_awaiting (hstate : s.tm.state = .awaitingResponse) (q : Request) : (s.tcpCall q).tm = s.tm := by
  rw [State.tcpCall, if_pos (TcpMaster.refuses_of_awaiting hstate q), State.ret_tm]

theorem TcpMaster.pending_lost {m : TcpMaster} (hctx : m.ctx = some ctx) (hlost : ctx.lost = true) :
    ∀ c, m.pending = some c → c.lost = true :=
  TcpMaster.pending_forall (.inr (.inr ⟨ctx, hctx, hlost⟩))

section
variable (hstate : s.tm.state = .awaitingResponse) (hctx : s.tm.ctx = some ctx) (hlost : ctx.lost = true)
include hstate hctx hlost

/-- A lost request takes no wire row. -/
theorem tcpWire_of_lost {Req : Type} (fc : FunctionCode) (request : Req → Request) (m : TcpMsg Req) :
    s.tcpWire fc request m = s := by
  cases m with
  | request q => exact if_pos (TcpMaster.refuses_of_awaiting hstate (request q))
  | response h data =>
    exact tcpWire_ignores fc request data fun c hc => .inl (TcpMaster.pending_lost hctx hlost c hc)

/-- An operation of the TCP master other than the poll leaves a lost request as it is. -/
theorem tcpMaster_keeps_lost_request {i : Instr} {t : State} (hpart : changedPart i = some .tcpMaster)
    (hpoll : i ≠ .tmTcpPoll) (h : exec i s = .next t) : t.tm.state = .awaitingResponse ∧ t.tm.ctx = some ctx := by
  have hsame : ∀ u : State, u.tm = s.tm → u.tm.state = .awaitingResponse ∧ u.tm.ctx = some ctx := by
    intro u hu
    rw [hu]
    exact ⟨hstate, hctx⟩
  have hdrop : s.tcpDrop.tm.state = .awaitingResponse ∧ s.tcpDrop.tm.ctx = some ctx := by
    refine ⟨hstate, ?_⟩
    change s.tm.ctx.map TransactionContext.lose = some ctx
    rw [hctx, Option.map_some, TransactionContext.lose_of_lost hlost]
  cases i
  case exceptionResponseDecode link fc code =>
    cases link
    · cases hpart
    · obtain rfl := Host.Outcome.next.inj h
      exact hsame _ (congrArg State.tm (tcpException_ignores code fc (TcpMaster.pending_lost hctx hlost)))
  all_goals obtain rfl := Host.Outcome.next.inj h
  case tcpReadCoils | tcpReadDiscreteInputs | tcpReadHoldingRegisters | tcpReadInputRegisters | tcpWriteSingleCoil |
      tcpWriteSingleRegister | tcpWriteMultipleCoils | tcpWriteMultipleRegisters =>
    exact hsame _ (congrArg State.tm (tcpWire_of_lost hstate hctx hlost ..))
  case tmReadCoils | tmReadDiscreteInputs | tmReadHoldingRegisters | tmReadInputRegisters | tmWriteSingleCoil |
      tmWriteSingleRegister | tmWriteMultipleCoils | tmWriteMultipleRegisters =>
    exact hsame _ (tcpCall_of_awaiting hstate _)
  case tmConnect ok =>
    split
    · exact ⟨hstate, hctx⟩
    · split <;> exact ⟨hstate, hctx⟩
  case tmDisconnect => split <;> exact hdrop
  case tmTcpRx bytes => split <;> exact ⟨hstate, hctx⟩
  case tmTcpPeerClose =>
    split
    · exact hdrop
    · exact ⟨hstate, hctx⟩
  case tmTcpPoll => exact absurd rfl hpoll
  all_goals cases hpart

/-- The poll of a lost request consumes the whole frames of the stream and tests the deadline. -/
theorem exec_tmTcpPoll_of_lost : ∃ (frames : List (List Byte)) (part : List Byte),
    ctx.resp ++ s.tm.rxs = frames.flatten ++ part ∧
    (∀ f ∈ frames, ∀ more, mbapSplit (f ++ more) = some (f, more)) ∧ mbapSplit part = none ∧
    exec .tmTcpPoll s = .next ((s.tcpGather ctx part).tcpDeadline ctx part) := by
  obtain ⟨frames, part, hbuf, hframes, hpart, hscan⟩ := ctx.scan_of_lost hlost (ctx.resp ++ s.tm.rxs)
  exact ⟨frames, part, hbuf, hframes, hpart, exec_tmTcpPoll_of_none hstate hctx hscan⟩

/-- Only the poll at or after its deadline ends a lost request. -/
theorem exec_keeps_lost_request {i : Instr} {t : State} (h : exec i s = .next t) :
    (i = .tmTcpPoll ∧ ctx.deadline ≤ s.now) ∨
      (t.tm.state = .awaitingResponse ∧ ∃ resp, t.tm.ctx = some { ctx with resp := resp }) := by
  by_cases hpoll : i = .tmTcpPoll
  · subst hpoll
    obtain ⟨_, part, -, -, -, hrun⟩ := exec_tmTcpPoll_of_lost hstate hctx hlost
    obtain rfl := Host.Outcome.next.inj (h.symm.trans hrun)
    by_cases hdue : ctx.deadline ≤ s.now
    · exact .inl ⟨rfl, hdue⟩
    · rw [tcpDeadline_of_early (s := s.tcpGather ctx part) part (Nat.lt_of_not_le hdue)]
      exact .inr ⟨hstate, part, rfl⟩
  · have hkept : t.tm.state = .awaitingResponse ∧ t.tm.ctx = some ctx := by
      by_cases htm : t.tm = s.tm
      · rw [htm]
        exact ⟨hstate, hctx⟩
      · exact tcpMaster_keeps_lost_request hstate hctx hlost ((exec_onlyChanges i s t h).part_of_tm_ne htm) hpoll h
    exact .inr ⟨hkept.1, ctx.resp, hkept.2⟩

end

end

end Sys2Proof.Machine

/-- Settles O45: a live request scans for its own response, a lost one for none, and no other operation reaches a lost one. -/
theorem tcpPollTurn : Obligations.TcpPollTurn := by
  refine ⟨fun s ctx hstate hctx hlive => ?live, fun s ctx hstate hctx hlost => ?lost,
    fun i s t ctx h hstate hctx hlost => exec_keeps_lost_request hstate hctx hlost h, fun s => exec_tmTcpPoll_of_idle⟩
  case live =>
    have hscan := ctx.scan_of_live hlive (ctx.resp ++ s.tm.rxs)
    intro scan taken
    have hfound : ∀ fc data, scan.found = some (fc, data) →
        exec .tmTcpPoll s = .next (taken.tcpConclude ctx scan.rest fc data) := fun fc data hf =>
      exec_tmTcpPoll_of_found hstate hctx (hscan.trans (congrArg (MbapScan.mk · scan.rest) hf))
    have hnone : scan.found = none → exec .tmTcpPoll s = .next (taken.tcpDeadline ctx scan.rest) := fun hf =>
      exec_tmTcpPoll_of_none hstate hctx (hscan.trans (congrArg (MbapScan.mk · scan.rest) hf))
    refine ⟨fun fc code more hf hbit => ?exception, fun fc hf hbit => ?noCode, fun fc data hf => ?normal,
      fun fc data hf hbit hfc => ?other, fun hf hdue => ?timeout, fun hf hearly => ?waits⟩
    case exception => rw [hfound _ _ hf, tcpConclude_of_exception taken ctx scan.rest hbit]
    case noCode => rw [hfound _ _ hf, tcpConclude_of_exception_nil taken ctx scan.rest hbit]
    case normal => rw [hfound _ _ hf, tcpConclude_code]
    case other => rw [hfound _ _ hf, tcpConclude_of_other taken ctx scan.rest hbit hfc]
    case timeout => rw [hnone hf, tcpDeadline_of_due (s := taken) scan.rest hdue]
    case waits => rw [hnone hf, tcpDeadline_of_early (s := taken) scan.rest hearly]
  case lost =>
    obtain ⟨frames, part, hbuf, hframes, hpart, hrun⟩ := exec_tmTcpPoll_of_lost hstate hctx hlost
    refine ⟨frames, part, hbuf, hframes, hpart, fun hdue => ?due, fun hearly => ?early⟩
    case due => exact hrun.trans (congrArg _ (tcpDeadline_of_due (s := s.tcpGather ctx part) part hdue))
    case early => exact hrun.trans (congrArg _ (tcpDeadline_of_early (s := s.tcpGather ctx part) part hearly))
end

section
/-! The answer to a read request, from the slave's bank to the RTU master's caller (44_rtu_slave.md R266, R267, R270; 45_masters.md
R305, R306, R308): the bytes the slave queues are the frame the master accepts and decodes. -/
open Sys2Proof Sys2Proof.Machine Sys2Proof.Claims

namespace Sys2Proof.Machine

/-! The slave's side. -/

/-- A 16-bit field reads back the number written. -/
theorem toNat_field_two {n : Nat} (h : n < 65536) (before after : List Byte) :
    (field (before ++ two n ++ after) before.length).toNat = n := by
  have hfield : field (before ++ two n ++ after) before.length = be16 (hi8 (BitVec.ofNat 16 n)) (lo8 (BitVec.ofNat 16 n)) := by
    simp [field, two, List.getD_eq_getElem?_getD]
  rw [hfield, be16_hi8_lo8, BitVec.toNat_ofNat, Nat.mod_eq_of_lt h]

section
variable {s : State} {start count : Nat} {bank : List Word}

/-- A read of registers inside the bank (R266, R267). -/
theorem slaveRead_of_inside (fc unit : Byte) (hstart : start < 65536) (hmin : 1 ≤ count) (hmax : count ≤ 125)
    (hinside : start + count ≤ bank.length) :
    s.slaveRead fc bank unit (two start ++ two count) =
      (s.notify .slave (.readRequest fc start count)).respond
        ([unit, fc, BitVec.ofNat 8 (2 * count)] ++ wordsToBytes (memRead bank start count)) := by
  have hfirst : (field (two start ++ two count) 0).toNat = start := toNat_field_two hstart [] (two count)
  have hsecond : (field (two start ++ two count) 2).toNat = count := by
    have hcount := toNat_field_two (show count < 65536 by omega) (two start) []
    rwa [List.append_nil] at hcount
  have hquantity : ¬ (count < 1 ∨ Config.maxReadRegs < count) := by
    rintro (h | h)
    · omega
    · exact absurd hmax (Nat.not_le.2 h)
  have hbank : inBank bank start count = true := decide_eq_true hinside
  simp only [State.slaveRead, hfirst, hsecond, if_neg hquantity, hbank]
  rfl

/-- An accepted frame, when its silence is over, is executed (R232, R260). -/
theorem exec_slGapFire_of_frame {fc : Byte} {data : List Byte} (harmed : s.sl.gapArmed = true)
    (hdue : s.sl.gapDeadline ≤ s.now) (hasm : s.sl.asm = rtuFrame s.sl.addr fc data) :
    exec .slGapFire s = .next (s.gapCleared.slaveRun ⟨s.sl.addr, fc, data⟩) := by
  have hdecode : slaveDecode s.sl.asm = some (slaveInstr ⟨s.sl.addr, fc, data⟩) :=
    hasm ▸ slaveDecode_rtuFrame s.sl.addr fc data
  rw [exec_slGapFire_of_expired ((Slave.gapExpired_iff _ _).2 ⟨harmed, hdue⟩), ← slaveProcess_of_decode hdecode,
    exec_slaveInstr]
  exact congrArg _ (if_pos rfl)

/-- An open channel queues the response behind what it holds (R270). -/
theorem respond_wq (body : List Byte) (hopen : s.sl.bs.state = .opened) :
    (s.respond body).sl.bs.wq = s.sl.bs.wq ++ sealFrame body := by
  rw [State.respond_sl]
  simp only [Channel.write, if_pos ((Channel.isOpen_iff _).2 hopen)]

/-- What the slave queues when the gap timer closes a read request: the registers of the bank, in a frame. -/
theorem slave_queues_registers {t : State} {fc : FunctionCode}
    (hbank : fc = .readHoldingRegisters ∧ bank = s.sl.hr ∨ fc = .readInputRegisters ∧ bank = s.sl.ir)
    (hstart : start < 65536) (hmin : 1 ≤ count) (hmax : count ≤ 125) (hinside : start + count ≤ bank.length)
    (hopen : s.sl.bs.state = .opened) (harmed : s.sl.gapArmed = true) (hdue : s.sl.gapDeadline ≤ s.now)
    (hasm : s.sl.asm = rtuFrame s.sl.addr fc.code (two start ++ two count)) (h : exec .slGapFire s = .next t) :
    t.sl.bs.wq = s.sl.bs.wq ++
      rtuFrame s.sl.addr fc.code (BitVec.ofNat 8 (2 * count) :: wordsToBytes (memRead bank start count)) := by
  have hrun : s.gapCleared.slaveRun ⟨s.sl.addr, fc.code, two start ++ two count⟩ =
      s.gapCleared.slaveRead fc.code bank s.sl.addr (two start ++ two count) := by
    rcases hbank with ⟨rfl, rfl⟩ | ⟨rfl, rfl⟩ <;> rfl
  obtain rfl := Host.Outcome.next.inj (h.symm.trans (exec_slGapFire_of_frame harmed hdue hasm))
  rw [hrun, slaveRead_of_inside _ _ hstart hmin hmax hinside]
  exact respond_wq (s := s.gapCleared.notify _ _) _ hopen

end

/-! The master's side. -/

/-- A whole frame from the unit asked is accepted. -/
theorem rtuCandidate_of_frame {unit fc : Byte} {data : List Byte}
    (h : rtuComplete (rtuFrame unit fc data) = some (rtuFrame unit fc data).length) :
    rtuCandidate (rtuFrame unit fc data) unit = some ⟨unit, fc, data⟩ := by
  simp only [rtuCandidate, h, List.take_length, rtuCheck_of_same_unit (rtuOpen_rtuFrame unit fc data) rfl]

/-- The response to a read is complete with the last byte of its trailer (R306). -/
theorem rtuComplete_readResponse (unit : Byte) {fc n : Byte} {block : List Byte}
    (hfc : fc = 0x01#8 ∨ fc = 0x02#8 ∨ fc = 0x03#8 ∨ fc = 0x04#8) (hn : n.toNat = block.length) :
    rtuComplete (rtuFrame unit fc (n :: block)) = some (rtuFrame unit fc (n :: block)).length := by
  have hframe : rtuFrame unit fc (n :: block) =
      unit :: fc :: n :: (block ++ [lo8 (crc16 (unit :: fc :: n :: block)), hi8 (crc16 (unit :: fc :: n :: block))]) := rfl
  rw [hframe, rtuComplete_of_read unit n _ hfc, List.length_cons, List.length_cons, List.length_cons, List.length_append,
    hn, if_pos (by simp only [List.length_cons, List.length_nil]; omega)]
  simp only [List.length_cons, List.length_nil, Option.some.injEq]
  omega

theorem exec_rmMasterPoll_of_response {s : State} {ctx : TransactionContext} {p : RtuPdu}
    (hstate : s.rm.state = .awaitingResponse) (hctx : s.rm.ctx = some ctx)
    (hresponse : ctx.response (ctx.resp ++ s.rm.bs.available) = some p) :
    exec .rmMasterPoll s = .next ((s.rtuGather ctx).rtuConclude ctx p.fc p.data) := by
  simp only [exec, execRmMasterPoll, RtuMaster.pending_of_awaiting hstate, hctx, hresponse]

/-- The registers of a data block are the answer to a register read (R308). -/
theorem answer_registers {ctx : TransactionContext} {n : Byte} {vs : List Word}
    (hfc : ctx.fc = .readHoldingRegisters ∨ ctx.fc = .readInputRegisters) (hcount : ctx.req.second.toNat = vs.length)
    (hn : n.toNat = 2 * vs.length) : answer ctx ctx.fc (n :: wordsToBytes vs) = .words vs := by
  have hblock := dataBlock_of_length (2 * vs.length) hn (length_wordsToBytes vs)
  rw [answer_same]
  rcases hfc with hfc | hfc <;>
    simp only [decodeResponse, hfc, hcount, hblock, Option.map_some, bytesToWords_wordsToBytes, Option.getD_some]

/-- One poll of the frame of the registers asked for ends the request with them. -/
theorem master_decodes_registers {s : State} {ctx : TransactionContext} {vs : List Word}
    (hfc : ctx.fc = .readHoldingRegisters ∨ ctx.fc = .readInputRegisters) (hmax : vs.length ≤ 125)
    (hcount : ctx.req.second.toNat = vs.length) (hstate : s.rm.state = .awaitingResponse) (hctx : s.rm.ctx = some ctx)
    (hresp : ctx.resp = []) (hlive : ctx.lost = false) (hopen : s.rm.bs.state = .opened)
    (hrb : s.rm.bs.rb = rtuFrame ctx.addr ctx.fc.code (BitVec.ofNat 8 (2 * vs.length) :: wordsToBytes vs)) :
    exec .rmMasterPoll s = .next (rtuEnded (s.rtuGather ctx) ctx (.words vs)) := by
  have hbytes : (BitVec.ofNat 8 (2 * vs.length)).toNat = 2 * vs.length := by rw [BitVec.toNat_ofNat]; omega
  have hcode : ctx.fc.code = 0x01#8 ∨ ctx.fc.code = 0x02#8 ∨ ctx.fc.code = 0x03#8 ∨ ctx.fc.code = 0x04#8 := by
    rcases hfc with hfc | hfc <;> rw [hfc] <;> decide
  have hresponse : ctx.response (ctx.resp ++ s.rm.bs.available) =
      some ⟨ctx.addr, ctx.fc.code, BitVec.ofNat 8 (2 * vs.length) :: wordsToBytes vs⟩ := by
    rw [hresp, List.nil_append, Channel.available_of_open hopen, hrb, TransactionContext.response, hlive]
    exact rtuCandidate_of_frame (rtuComplete_readResponse _ hcode (hbytes.trans (length_wordsToBytes vs).symm))
  rw [exec_rmMasterPoll_of_response hstate hctx hresponse, rtuConclude_code, answer_registers hfc hcount hbytes]

end Sys2Proof.Machine

/-- Settles O43: the slave queues the frame of the bank's registers, and that frame, alone in the buffer, completes the
request. -/
theorem slaveAnswersWhatTheMasterDecodes : Obligations.SlaveAnswersWhatTheMasterDecodes := by
  rintro s t m unit start count fc bank ctx hbank hstart hmin hmax hinside rfl hopen hwq harmed hdue hasm hfire
    hstate hctx haddr rfl hreq hresp hlive hmopen hrb
  have hregs : (memRead bank start count).length = count := by
    simp only [memRead, List.length_take, List.length_drop]
    omega
  have hqueued := slave_queues_registers hbank hstart hmin hmax hinside hopen harmed hdue hasm hfire
  rw [hwq, List.nil_append] at hqueued
  have hpoll := master_decodes_registers (vs := memRead bank start count) (hbank.imp And.left And.left)
    (hregs.symm ▸ hmax) (by rw [hreq, hregs, BitVec.toNat_ofNat]; omega) hstate hctx hresp hlive hmopen
    (by rw [hrb, hqueued, haddr, hregs])
  exact ⟨_, hpoll, rfl, rfl, List.append_nil _, rfl⟩
end

section
/-! The RTU slave's answers in the words of the claims (44_rtu_slave.md R265 to R272, R276 to R279): what the slave queues and
raises, and each wire opcode case by case, the exceptions in their order before the normal answer. -/
open Sys2Proof Sys2Proof.Machine Sys2Proof.Claims

namespace Sys2Proof.Machine

/-! Responses and exceptions (R270, R272). -/

theorem Channel.write_eq (ch : Channel) (bytes : List Byte) :
    ch.write bytes = { ch with wq := if ch.state = .opened then ch.wq ++ bytes else ch.wq } := by
  simp only [Channel.write, Channel.isOpen_iff]
  split <;> rfl

theorem State.respond_eq_slaveSent (s : State) (body : List Byte) : s.respond body = slaveSent s body := by
  rw [State.respond, State.chan_slave, State.setChan_slave, Channel.write_eq]
  rfl

theorem State.raiseException_eq_slaveRaised (s : State) (unit fc : Byte) (code : ExceptionCode) :
    s.raiseException unit fc code = slaveRaised s unit fc code.toByte := by
  rw [State.raiseException, State.respond_eq_slaveSent, State.notify_eq_traced, slaveRaised]

theorem wordsToBytes_eq_registerBytes (vs : List Word) : wordsToBytes vs = registerBytes vs := by
  induction vs with
  | nil => rfl
  | cons v vs ih => rw [wordsToBytes, ih]; rfl

/-! The 16-bit fields of a request (30_encoding.md R97). -/

theorem toNat_field_first {start : Nat} (h : start < 65536) (rest : List Byte) :
    (field (two start ++ rest) 0).toNat = start :=
  toNat_field_two h [] rest

theorem toNat_field_second (start : Nat) {count : Nat} (h : count < 65536) (rest : List Byte) :
    (field (two start ++ (two count ++ rest)) 2).toNat = count := by
  rw [← List.append_assoc]
  exact toNat_field_two h (two start) rest

theorem toNat_field_last (start : Nat) {count : Nat} (h : count < 65536) :
    (field (two start ++ two count) 2).toNat = count := by
  rw [← List.append_nil (two count), toNat_field_second start h]

section
variable {s : State} {bank : List Word} {start count addr : Nat}

/-! Register reads (R266, R267). -/

theorem slaveRead_of_bad_length (fc : Byte) (bank : List Word) (unit : Byte) {data : List Byte} (h : data.length ≠ 4) :
    s.slaveRead fc bank unit data = slaveRaised s unit fc 0x03#8 := by
  simp only [State.slaveRead, if_pos h, State.raiseException_eq_slaveRaised, ExceptionCode.toByte]

theorem slaveRead_of_bad_count (fc : Byte) (bank : List Word) (unit : Byte) (hcount : count < 65536)
    (h : count < 1 ∨ 125 < count) : s.slaveRead fc bank unit (two start ++ two count) = slaveRaised s unit fc 0x03#8 := by
  have hquantity : count < 1 ∨ Config.maxReadRegs < count := h
  simp only [State.slaveRead, toNat_field_last start hcount, if_pos hquantity, ite_self, State.raiseException_eq_slaveRaised,
    ExceptionCode.toByte]

theorem slaveRead_of_outside (fc unit : Byte) (hstart : start < 65536) (hmin : 1 ≤ count) (hmax : count ≤ 125)
    (h : bank.length < start + count) :
    s.slaveRead fc bank unit (two start ++ two count) = slaveRaised s unit fc 0x02#8 := by
  have hquantity : ¬ (count < 1 ∨ Config.maxReadRegs < count) := not_or.2 ⟨Nat.not_lt.2 hmin, Nat.not_lt.2 hmax⟩
  have hbank : inBank bank start count = false := decide_eq_false (Nat.not_le.2 h)
  simp only [State.slaveRead, toNat_field_first hstart, toNat_field_last start (show count < 65536 by omega),
    if_neg hquantity, hbank, State.raiseException_eq_slaveRaised]
  rfl

theorem slaveRead_of_inside_eq_slaveSent (fc unit : Byte) (hstart : start < 65536) (hmin : 1 ≤ count) (hmax : count ≤ 125)
    (h : start + count ≤ bank.length) :
    s.slaveRead fc bank unit (two start ++ two count) =
      slaveSent (traced s [⟨.slave, .readRequest fc start count⟩] [])
        ([unit, fc, BitVec.ofNat 8 (2 * count)] ++ registerBytes ((bank.drop start).take count)) := by
  rw [slaveRead_of_inside fc unit hstart hmin hmax h, State.respond_eq_slaveSent, State.notify_eq_traced,
    wordsToBytes_eq_registerBytes, memRead]

theorem exec_slvReadHoldingRegisters (s : State) (data : List Byte) :
    exec (.slvReadHoldingRegisters s.sl.addr data) s = .next (s.slaveRead 0x03#8 s.sl.hr s.sl.addr data) :=
  congrArg Host.Outcome.next (if_pos rfl)

theorem exec_slvReadInputRegisters (s : State) (data : List Byte) :
    exec (.slvReadInputRegisters s.sl.addr data) s = .next (s.slaveRead 0x04#8 s.sl.ir s.sl.addr data) :=
  congrArg Host.Outcome.next (if_pos rfl)

/-! The write of one register (R268). -/

theorem slaveWriteSingle_of_bad_length (unit : Byte) {data : List Byte} (h : data.length ≠ 4) :
    s.slaveWriteSingle unit data = slaveRaised s unit 0x06#8 0x03#8 := by
  simp only [State.slaveWriteSingle, if_pos h, State.raiseException_eq_slaveRaised, ExceptionCode.toByte]

theorem slaveWriteSingle_of_outside (unit : Byte) (value : Word) (haddr : addr < 65536) (h : s.sl.hr.length ≤ addr) :
    s.slaveWriteSingle unit (two addr ++ [hi8 value, lo8 value]) = slaveRaised s unit 0x06#8 0x02#8 := by
  have hbank : inBank s.sl.hr addr 1 = false := decide_eq_false (Nat.not_le.2 (Nat.lt_succ_of_le h))
  simp only [State.slaveWriteSingle, toNat_field_first haddr, hbank, State.raiseException_eq_slaveRaised]
  rfl

theorem slaveWriteSingle_of_inside (unit : Byte) (value : Word) (haddr : addr < 65536) (h : addr < s.sl.hr.length) :
    s.slaveWriteSingle unit (two addr ++ [hi8 value, lo8 value]) =
      slaveSent (traced (s.setHolding (s.sl.hr.set addr value)) [⟨.slave, .writeRequest addr value⟩] [])
        ([unit, 0x06#8] ++ (two addr ++ [hi8 value, lo8 value])) := by
  have hvalue : field (two addr ++ [hi8 value, lo8 value]) 2 = value := be16_hi8_lo8 value
  have hbank : inBank s.sl.hr addr 1 = true := decide_eq_true h
  simp only [State.slaveWriteSingle, toNat_field_first haddr, hvalue, hbank, State.respond_eq_slaveSent,
    State.notify_eq_traced]
  rfl

theorem exec_slvWriteSingleRegister (s : State) (data : List Byte) :
    exec (.slvWriteSingleRegister s.sl.addr data) s = .next (s.slaveWriteSingle s.sl.addr data) :=
  congrArg Host.Outcome.next (if_pos rfl)

end

/-! The write of a register run (R269). -/

/-- Register `i` of a block of register bytes (30_encoding.md R100). -/
def blockRegister (block : List Byte) (i : Nat) : Word := be16 (block.getD (2 * i) 0#8) (block.getD (2 * i + 1) 0#8)

theorem writeRequests_map (addr count : Nat) (value : Nat → Word) :
    writeRequests addr ((List.range count).map value) =
      (List.range count).map fun i => ⟨.slave, .writeRequest (addr + i) (value i)⟩ := by
  induction count generalizing addr value with
  | zero => rfl
  | succ count ih =>
    simp only [List.range_succ_eq_map, List.map_cons, List.map_map, writeRequests, ih, Nat.add_zero, Function.comp_def,
      Nat.succ_eq_add_one, Nat.add_assoc, Nat.add_comm 1]

section
variable {s : State} {start count : Nat} {bc : Byte} {block : List Byte}

/-- The data of a request 0x10. -/
def runRequest (start count : Nat) (bc : Byte) (block : List Byte) : List Byte := two start ++ two count ++ bc :: block

theorem toNat_field_runRequest_start (h : start < 65536) : (field (runRequest start count bc block) 0).toNat = start := by
  rw [runRequest, List.append_assoc, toNat_field_first h]

theorem toNat_field_runRequest_count (h : count < 65536) : (field (runRequest start count bc block) 2).toNat = count := by
  rw [runRequest, List.append_assoc, toNat_field_second start h]

theorem length_runRequest : (runRequest start count bc block).length = 5 + block.length := by
  simp only [runRequest, two, List.length_append, List.length_cons, List.length_nil]
  omega

/-- The test of the byte count, against the count and against the bytes that are there (R269). -/
theorem runRequest_mismatch_iff :
    ((runRequest start count bc block).getD 4 0#8).toNat ≠ 2 * count ∨
        (runRequest start count bc block).length ≠ 5 + ((runRequest start count bc block).getD 4 0#8).toNat ↔
      bc.toNat ≠ 2 * count ∨ block.length ≠ bc.toNat := by
  rw [length_runRequest, Ne, Ne, Nat.add_left_cancel_iff]
  rfl

theorem slaveWriteMultiple_of_short (unit : Byte) {data : List Byte} (h : data.length < 5) :
    s.slaveWriteMultiple unit data = slaveRaised s unit 0x10#8 0x03#8 := by
  simp only [State.slaveWriteMultiple, if_pos h, State.raiseException_eq_slaveRaised, ExceptionCode.toByte]

theorem slaveWriteMultiple_of_bad_count (unit : Byte) (hcount : count < 65536) (h : count < 1 ∨ 123 < count) :
    s.slaveWriteMultiple unit (runRequest start count bc block) = slaveRaised s unit 0x10#8 0x03#8 := by
  have hquantity : count < 1 ∨ Config.maxWriteRegs < count := h
  simp only [State.slaveWriteMultiple, toNat_field_runRequest_count hcount, if_pos hquantity, ite_self,
    State.raiseException_eq_slaveRaised, ExceptionCode.toByte]

theorem slaveWriteMultiple_of_bad_bytes (unit : Byte) (hcount : count < 65536)
    (h : bc.toNat ≠ 2 * count ∨ block.length ≠ bc.toNat) :
    s.slaveWriteMultiple unit (runRequest start count bc block) = slaveRaised s unit 0x10#8 0x03#8 := by
  simp only [State.slaveWriteMultiple, toNat_field_runRequest_count hcount, if_pos (runRequest_mismatch_iff.2 h), ite_self,
    State.raiseException_eq_slaveRaised, ExceptionCode.toByte]

/-- A request that passes the tests of its structure and quantity is decided by the bank. -/
theorem slaveWriteMultiple_of_good (unit : Byte) (hstart : start < 65536) (hmin : 1 ≤ count) (hmax : count ≤ 123)
    (hbytes : bc.toNat = 2 * count) (hblock : block.length = bc.toNat) :
    s.slaveWriteMultiple unit (runRequest start count bc block) =
      if inBank s.sl.hr start count then
        slaveSent
          (traced (s.setHolding (memWrite s.sl.hr start ((List.range count).map (blockRegister block))))
            ((List.range count).map fun i => ⟨.slave, .writeRequest (start + i) (blockRegister block i)⟩) [])
          ([unit, 0x10#8] ++ two start ++ two count)
      else slaveRaised s unit 0x10#8 0x02#8 := by
  have hlong : ¬ (runRequest start count bc block).length < 5 := by rw [length_runRequest]; omega
  have hquantity : ¬ (count < 1 ∨ Config.maxWriteRegs < count) := not_or.2 ⟨Nat.not_lt.2 hmin, Nat.not_lt.2 hmax⟩
  have hmatch := mt (runRequest_mismatch_iff (start := start)).1 (not_or.2 ⟨not_not_intro hbytes, not_not_intro hblock⟩)
  have hvalues : bytesToWords ((runRequest start count bc block).drop 5) = (List.range count).map (blockRegister block) :=
    bytesToWords_eq_map count block (hblock.trans hbytes)
  simp only [State.slaveWriteMultiple, toNat_field_runRequest_start hstart,
    toNat_field_runRequest_count (show count < 65536 by omega), if_neg hlong, if_neg hquantity, if_neg hmatch, hvalues,
    writeRequests_map, State.respond_eq_slaveSent, State.raiseException_eq_slaveRaised]
  cases inBank s.sl.hr start count
  · rfl
  · simp only [traced, List.append_nil]
    rfl

theorem exec_slvWriteMultipleRegisters (s : State) (data : List Byte) :
    exec (.slvWriteMultipleRegisters s.sl.addr data) s = .next (s.slaveWriteMultiple s.sl.addr data) :=
  congrArg Host.Outcome.next (if_pos rfl)

end

/-! The host's access to the banks (R276 to R279). -/

theorem exec_slSetHoldingRegister (addr : Nat) (value : Word) (s : State) :
    exec (.slSetHoldingRegister addr value) s = .next
      (if addr < s.sl.hr.length then
        traced (s.setHolding (s.sl.hr.set addr value)) [] [returned .slave 0x30#8 (.bool true)]
      else traced s [] [returned .slave 0x30#8 (.bool false)]) := by
  simp only [exec, execSlSetHoldingRegister, inBank, decide_eq_true_eq, Nat.succ_le_iff, State.ret_eq_traced]

theorem exec_slSetInputRegister (addr : Nat) (value : Word) (s : State) :
    exec (.slSetInputRegister addr value) s = .next
      (if addr < s.sl.ir.length then
        traced (s.setInput (s.sl.ir.set addr value)) [] [returned .slave 0x32#8 (.bool true)]
      else traced s [] [returned .slave 0x32#8 (.bool false)]) := by
  simp only [exec, execSlSetInputRegister, inBank, decide_eq_true_eq, Nat.succ_le_iff, State.ret_eq_traced]

theorem exec_slGetHoldingRegister (addr : Nat) (s : State) :
    exec (.slGetHoldingRegister addr) s =
      .next (traced s [] [returned .slave 0x31#8 (.valueOrNone s.sl.hr[addr]?)]) := by
  simp only [exec, execSlGetHoldingRegister, State.ret_eq_traced]

theorem exec_slGetInputRegister (addr : Nat) (s : State) :
    exec (.slGetInputRegister addr) s =
      .next (traced s [] [returned .slave 0x33#8 (.valueOrNone s.sl.ir[addr]?)]) := by
  simp only [exec, execSlGetInputRegister, State.ret_eq_traced]

end Sys2Proof.Machine

/-- Settles O26: the four cases of `slaveRead`, on the bank the opcode names. -/
theorem slaveReadsRegisters : Obligations.SlaveReadsRegisters := by
  intro s data start count
  simp only [exec_slvReadHoldingRegisters, exec_slvReadInputRegisters, Host.Outcome.next.injEq]
  refine ⟨fun hlength => ⟨slaveRead_of_bad_length _ _ _ hlength, slaveRead_of_bad_length _ _ _ hlength⟩, ?fields⟩
  rintro hstart hcount rfl
  exact ⟨fun h => ⟨slaveRead_of_bad_count _ _ _ hcount h, slaveRead_of_bad_count _ _ _ hcount h⟩, fun hmin hmax =>
    ⟨slaveRead_of_outside _ _ hstart hmin hmax, slaveRead_of_inside_eq_slaveSent _ _ hstart hmin hmax,
      slaveRead_of_outside _ _ hstart hmin hmax, slaveRead_of_inside_eq_slaveSent _ _ hstart hmin hmax⟩⟩

/-- Settles O27: the three cases of `slaveWriteSingle`. -/
theorem slaveWritesOneRegister : Obligations.SlaveWritesOneRegister := by
  intro s data addr value
  simp only [exec_slvWriteSingleRegister, Host.Outcome.next.injEq]
  refine ⟨slaveWriteSingle_of_bad_length _, ?fields⟩
  rintro haddr rfl
  exact ⟨slaveWriteSingle_of_outside _ value haddr, slaveWriteSingle_of_inside _ value haddr⟩

/-- Settles O28: the bank written is `memWrite` of the block's registers. -/
theorem slaveWritesARegisterRun : Obligations.SlaveWritesARegisterRun := by
  intro s data block start count bc
  simp only [exec_slvWriteMultipleRegisters, Host.Outcome.next.injEq]
  refine ⟨slaveWriteMultiple_of_short _, ?fields⟩
  rintro hstart hcount rfl
  refine ⟨slaveWriteMultiple_of_bad_count _ hcount, fun hmin hmax =>
    ⟨slaveWriteMultiple_of_bad_bytes _ hcount, fun hbytes hblock => ?bank⟩⟩
  have hgood := slaveWriteMultiple_of_good (s := s) s.sl.addr hstart hmin hmax hbytes hblock
  have hlength : ((List.range count).map (blockRegister block)).length = count := by simp
  refine ⟨fun h => hgood.trans (if_neg ?outside), fun h => ⟨_, length_memWrite _ start _, fun i hi => ?inside,
    fun a ha => memWrite_outside _ _ _ a (by rwa [hlength]), hgood.trans (if_pos (decide_eq_true h))⟩⟩
  case outside => simpa [inBank] using h
  case inside =>
    rw [memWrite_inside _ _ _ i (by rwa [hlength]) (by rwa [hlength]), List.getElem?_map, List.getElem?_range hi]
    rfl

/-- Settles O29: the exception response is the model's one exception entry. -/
theorem slaveRaisesExceptions : Obligations.SlaveRaisesExceptions := by
  intro s fc data
  have hbuild (code : ExceptionCode) :
      exec (.exceptionResponseBuild fc code) s = .next (slaveRaised s s.sl.addr fc code.toByte) :=
    congrArg Host.Outcome.next (s.raiseException_eq_slaveRaised s.sl.addr fc code)
  refine ⟨fun _ _ _ _ => ?unsupported, hbuild .illegalFunction, hbuild .illegalDataAddress, hbuild .illegalDataValue⟩
  have hown : exec (.slvUnsupportedFunction s.sl.addr fc data) s = exec (.exceptionResponseBuild fc .illegalFunction) s :=
    congrArg Host.Outcome.next (if_pos rfl)
  exact hown.trans (hbuild .illegalFunction)

/-- Settles O32: an address is inside a bank exactly when the bank has a register there. -/
theorem hostReadsAndWritesTheBanks : Obligations.HostReadsAndWritesTheBanks := by
  intro s addr value
  simp only [exec_slSetHoldingRegister, exec_slGetHoldingRegister, exec_slSetInputRegister, exec_slGetInputRegister]
  refine ⟨fun h => ⟨by rw [if_pos h]; rfl, _, List.getElem?_eq_getElem h, by rw [List.getElem?_eq_getElem h]⟩,
    fun h => ⟨by rw [if_neg (Nat.not_lt.2 h)], by rw [List.getElem?_eq_none h]⟩,
    fun h => ⟨by rw [if_pos h]; rfl, _, List.getElem?_eq_getElem h, by rw [List.getElem?_eq_getElem h]⟩,
    fun h => ⟨by rw [if_neg (Nat.not_lt.2 h)], by rw [List.getElem?_eq_none h]⟩⟩
end

section
/-! Noninterference of the slave's answer (44_rtu_slave.md R280): what a frame does to the banks, to the bytes queued and to the
notifications is the same in any two states with the same banks. -/
open Sys2Proof Sys2Proof.Machine Sys2Proof.Claims

namespace Sys2Proof.Machine

/-- `s` after an answer of the slave: the holding bank it leaves, the notifications it raises, the body it queues. -/
def State.answered (s : State) (bank : List Word) (notes : List Notification) (body : List Byte) : State :=
  slaveSent (traced (s.setHolding bank) notes []) body

/-- Both states have moved by one and the same answer. -/
def SameAnswer (s₁ t₁ s₂ t₂ : State) : Prop :=
  ∃ (bank : List Word) (notes : List Notification) (body : List Byte),
    t₁ = s₁.answered bank notes body ∧ t₂ = s₂.answered bank notes body

/-- A response, with the notifications before it, is an answer. -/
theorem respond_eq_answered (s : State) (bank : List Word) (notes : List Notification) (body : List Byte) :
    { s with sl := { s.sl with hr := bank }, out := s.out ++ notes }.respond body = s.answered bank notes body := by
  rw [State.respond_eq_slaveSent, State.answered, traced, List.append_nil]
  rfl

/-- The bytes an answer queues: on an open channel only (R270). -/
theorem answered_wq {s : State} {state : ChanState} (hstate : s.sl.bs.state = state) (bank : List Word)
    (notes : List Notification) (body : List Byte) :
    (s.answered bank notes body).sl.bs.wq = s.sl.bs.wq ++ if state = .opened then withCrc body else [] := by
  subst hstate
  change (if s.sl.bs.state = .opened then s.sl.bs.wq ++ withCrc body else s.sl.bs.wq) = _
  split
  · rfl
  · rw [List.append_nil]

section
variable {s₁ s₂ : State}

theorem sameAnswer_respond (bank : List Word) (notes : List Notification) (body : List Byte) :
    SameAnswer s₁ ({ s₁ with sl := { s₁.sl with hr := bank }, out := s₁.out ++ notes }.respond body)
      s₂ ({ s₂ with sl := { s₂.sl with hr := bank }, out := s₂.out ++ notes }.respond body) :=
  ⟨bank, notes, body, respond_eq_answered s₁ bank notes body, respond_eq_answered s₂ bank notes body⟩

/-- A response that leaves the holding bank as it is. -/
theorem sameAnswer_notify_respond (hhr : s₁.sl.hr = s₂.sl.hr) (source : Source) (n : Notice) (body : List Byte) :
    SameAnswer s₁ ((s₁.notify source n).respond body) s₂ ((s₂.notify source n).respond body) :=
  ⟨s₁.sl.hr, [⟨source, n⟩], body, respond_eq_answered s₁ s₁.sl.hr [⟨source, n⟩] body,
    hhr ▸ respond_eq_answered s₂ s₂.sl.hr [⟨source, n⟩] body⟩

theorem sameAnswer_raise (hhr : s₁.sl.hr = s₂.sl.hr) (unit fc : Byte) (code : ExceptionCode) :
    SameAnswer s₁ (s₁.raiseException unit fc code) s₂ (s₂.raiseException unit fc code) :=
  sameAnswer_notify_respond hhr _ _ _

theorem sameAnswer_slaveRead (hhr : s₁.sl.hr = s₂.sl.hr) (fc : Byte) (bank : List Word) (unit : Byte) (data : List Byte) :
    SameAnswer s₁ (s₁.slaveRead fc bank unit data) s₂ (s₂.slaveRead fc bank unit data) := by
  simp only [State.slaveRead]
  split_ifs
  case neg => exact sameAnswer_notify_respond hhr _ _ _
  all_goals exact sameAnswer_raise hhr _ _ _

theorem sameAnswer_slaveWriteSingle (hhr : s₁.sl.hr = s₂.sl.hr) (unit : Byte) (data : List Byte) :
    SameAnswer s₁ (s₁.slaveWriteSingle unit data) s₂ (s₂.slaveWriteSingle unit data) := by
  simp only [State.slaveWriteSingle, hhr]
  split_ifs
  case neg => exact sameAnswer_respond _ [_] _
  all_goals exact sameAnswer_raise hhr _ _ _

theorem sameAnswer_slaveWriteMultiple (hhr : s₁.sl.hr = s₂.sl.hr) (unit : Byte) (data : List Byte) :
    SameAnswer s₁ (s₁.slaveWriteMultiple unit data) s₂ (s₂.slaveWriteMultiple unit data) := by
  simp only [State.slaveWriteMultiple, hhr]
  split_ifs
  case neg => exact sameAnswer_respond _ _ _
  all_goals exact sameAnswer_raise hhr _ _ _

theorem sameAnswer_slaveRun (hhr : s₁.sl.hr = s₂.sl.hr) (hir : s₁.sl.ir = s₂.sl.ir) (p : RtuPdu) :
    SameAnswer s₁ (s₁.slaveRun p) s₂ (s₂.slaveRun p) := by
  unfold State.slaveRun
  split
  · simpa only [State.slaveReadHolding, hhr] using sameAnswer_slaveRead hhr 0x03#8 s₂.sl.hr p.unit p.data
  · simpa only [State.slaveReadInput, hir] using sameAnswer_slaveRead hhr 0x04#8 s₂.sl.ir p.unit p.data
  · exact sameAnswer_slaveWriteSingle hhr p.unit p.data
  · exact sameAnswer_slaveWriteMultiple hhr p.unit p.data
  · exact sameAnswer_raise hhr p.unit p.fc .illegalFunction

/-- A frame is rejected by both or answered by both. -/
theorem slaveProcess_alike (haddr : s₁.sl.addr = s₂.sl.addr) (hhr : s₁.sl.hr = s₂.sl.hr) (hir : s₁.sl.ir = s₂.sl.ir)
    (frame : List Byte) :
    (s₁.slaveProcess frame = s₁ ∧ s₂.slaveProcess frame = s₂) ∨
      SameAnswer s₁ (s₁.slaveProcess frame) s₂ (s₂.slaveProcess frame) := by
  simp only [State.slaveProcess, haddr]
  cases rtuCheck frame s₂.sl.addr with
  | error _ => exact .inl ⟨rfl, rfl⟩
  | ok p => exact .inr (sameAnswer_slaveRun hhr hir p)

end

end Sys2Proof.Machine

open Sys2Proof.Machine in
/-- Settles O34: both states clear their assembly buffers and process the same frame with the same address and banks. -/
theorem slaveAnswerDependsOnFrameAndBanks : Obligations.SlaveAnswerDependsOnFrameAndBanks := by
  intro s₁ s₂ haddr hhr hir hasm hstate harmed₁ harmed₂ hdue₁ hdue₂
  have hfires₁ := exec_slGapFire_of_expired ((Slave.gapExpired_iff _ _).2 ⟨harmed₁, hdue₁⟩)
  have hfires₂ := exec_slGapFire_of_expired ((Slave.gapExpired_iff _ _).2 ⟨harmed₂, hdue₂⟩)
  rw [hasm] at hfires₁
  rcases slaveProcess_alike (s₁ := s₁.gapCleared) (s₂ := s₂.gapCleared) haddr hhr hir s₂.sl.asm with
    ⟨h₁, h₂⟩ | ⟨bank, notes, body, h₁, h₂⟩
  all_goals
    rw [h₁] at hfires₁
    rw [h₂] at hfires₂
  case inl =>
    refine ⟨_, _, [], [], hfires₁, hfires₂, ?_, ?_, ?_, ?_, hhr, hir⟩
    all_goals exact (List.append_nil _).symm
  case inr =>
    exact ⟨_, _, _, notes, hfires₁, hfires₂, answered_wq (s := s₁.gapCleared) hstate bank notes body,
      answered_wq (s := s₂.gapCleared) rfl bank notes body, rfl, rfl, rfl, hir⟩
end

section
/-! The requests of the masters (30_encoding.md R102 to R109; 45_masters.md R310 to R317) in the words of the claims: what each is
when its arguments are in range, and when they are not. -/
open Sys2Proof Sys2Proof.Machine Sys2Proof.Claims

namespace Sys2Proof.Machine

/-- A request with its arguments in range, its data, and the two fields its context keeps. -/
structure Request.Carries (q : Request) (data : List Byte) (first second : Nat) : Prop where
  legal : q.legal = true
  data_eq : q.data = data
  params_eq : q.params = ⟨BitVec.ofNat 16 first, BitVec.ofNat 16 second⟩

/-- A 16-bit field as the two bytes a claim writes. -/
theorem two_toNat (v : Word) : two v.toNat = [hi8 v, lo8 v] := by
  simp [two]

section
variable {start count addr max : Nat}

theorem readRequest_carries (fc : FunctionCode) (hstart : start ≤ 65535) (hword : count ≤ 65535) (hmin : 1 ≤ count)
    (hmax : count ≤ max) : (readRequest fc max start count).Carries (two start ++ two count) start count :=
  ⟨(readRequest_legal ..).2 ⟨hstart, hword, hmin, hmax⟩, rfl, rfl⟩

theorem coilRequest_carries (on : Bool) (haddr : addr ≤ 65535) :
    (coilRequest addr on).Carries (two addr ++ [if on then 0xFF#8 else 0x00#8, 0x00#8]) addr
      (if on then 0xFF00 else 0x0000) :=
  ⟨(coilRequest_legal ..).2 haddr, by cases on <;> rfl, by cases on <;> rfl⟩

theorem registerRequest_carries (value : Word) (haddr : addr ≤ 65535) :
    (registerRequest addr value).Carries (two addr ++ [hi8 value, lo8 value]) addr value.toNat :=
  ⟨(registerRequest_legal ..).2 haddr, rfl, by simp [registerRequest, toWord]⟩

theorem coilsRequest_carries {values : List Bool} (hstart : start ≤ 65535) (hmin : 1 ≤ values.length)
    (hmax : values.length ≤ 1968) :
    (coilsRequest start values).Carries
      (two start ++ two values.length ++ BitVec.ofNat 8 ((values.length + 7) / 8) :: packBits values)
      start values.length :=
  ⟨(coilsRequest_legal ..).2 ⟨hstart, hmin, hmax⟩, rfl, rfl⟩

theorem registersRequest_carries {values : List Word} (hstart : start ≤ 65535) (hmin : 1 ≤ values.length)
    (hmax : values.length ≤ 123) :
    (registersRequest start values).Carries
      (two start ++ two values.length ++ BitVec.ofNat 8 (2 * values.length) :: registerBytes values)
      start values.length :=
  ⟨(registersRequest_legal ..).2 ⟨hstart, hmin, hmax⟩, by rw [← wordsToBytes_eq_registerBytes]; rfl, rfl⟩

/-! Arguments out of range (R302). -/

theorem readRequest_illegal (fc : FunctionCode) (h : 65535 < start ∨ count < 1 ∨ max < count) :
    (readRequest fc max start count).legal ≠ true :=
  (readRequest_legal ..).not.2 (by omega)

theorem coilRequest_illegal (on : Bool) (h : 65535 < addr) : (coilRequest addr on).legal ≠ true :=
  (coilRequest_legal ..).not.2 (by omega)

theorem registerRequest_illegal (value : Word) (h : 65535 < addr) : (registerRequest addr value).legal ≠ true :=
  (registerRequest_legal ..).not.2 (by omega)

theorem coilsRequest_illegal {values : List Bool} (h : 65535 < start ∨ values.length < 1 ∨ 1968 < values.length) :
    (coilsRequest start values).legal ≠ true :=
  (coilsRequest_legal ..).not.2 (by rw [Config.maxWriteCoils]; omega)

theorem registersRequest_illegal {values : List Word} (h : 65535 < start ∨ values.length < 1 ∨ 123 < values.length) :
    (registersRequest start values).legal ≠ true :=
  (registersRequest_legal ..).not.2 (by rw [Config.maxWriteRegs]; omega)

end

/-! The request forms of the wire rows, whose fields are 16-bit words already (R110). -/

theorem toNat_le_max (v : Word) : v.toNat ≤ 65535 := Nat.le_of_lt_succ v.isLt

theorem readReq_carries (fc : FunctionCode) (q : ReadReq) {max : Nat} (hmin : 1 ≤ q.count.toNat)
    (hmax : q.count.toNat ≤ max) :
    (readRequest fc max q.start.toNat q.count.toNat).Carries [hi8 q.start, lo8 q.start, hi8 q.count, lo8 q.count]
      q.start.toNat q.count.toNat := by
  have h := readRequest_carries fc (toNat_le_max q.start) (toNat_le_max q.count) hmin hmax
  rwa [two_toNat, two_toNat] at h

theorem coilReq_carries (q : CoilReq) :
    (coilRequest q.addr.toNat q.on).Carries [hi8 q.addr, lo8 q.addr, if q.on then 0xFF#8 else 0x00#8, 0x00#8]
      q.addr.toNat (if q.on then 0xFF00 else 0x0000) := by
  have h := coilRequest_carries q.on (toNat_le_max q.addr)
  rwa [two_toNat] at h

theorem regReq_carries (q : RegReq) :
    (registerRequest q.addr.toNat q.value).Carries [hi8 q.addr, lo8 q.addr, hi8 q.value, lo8 q.value]
      q.addr.toNat q.value.toNat := by
  have h := registerRequest_carries q.value (toNat_le_max q.addr)
  rwa [two_toNat] at h

theorem coilsReq_carries (q : CoilsReq) (hmin : 1 ≤ q.values.length) (hmax : q.values.length ≤ 1968) :
    (coilsRequest q.start.toNat q.values).Carries
      ([hi8 q.start, lo8 q.start] ++ two q.values.length ++
        BitVec.ofNat 8 ((q.values.length + 7) / 8) :: packBits q.values) q.start.toNat q.values.length := by
  have h := coilsRequest_carries (toNat_le_max q.start) hmin hmax
  rwa [two_toNat] at h

theorem regsReq_carries (q : RegsReq) (hmin : 1 ≤ q.values.length) (hmax : q.values.length ≤ 123) :
    (registersRequest q.start.toNat q.values).Carries
      ([hi8 q.start, lo8 q.start] ++ two q.values.length ++
        BitVec.ofNat 8 (2 * q.values.length) :: registerBytes q.values) q.start.toNat q.values.length := by
  have h := registersRequest_carries (toNat_le_max q.start) hmin hmax
  rwa [two_toNat] at h

end Sys2Proof.Machine
end

section
/-! Sending a request, and refusing it, on either master (45_masters.md R301 to R303, R320, R321): the sixteen operations and the
sixteen wire rows are these two rules over the request. -/
open Sys2Proof Sys2Proof.Machine Sys2Proof.Claims

namespace Sys2Proof.Machine

section
variable {s : State} {q : Request} {data : List Byte} {first second : Nat}

/-- The send step of the RTU master on an open channel. -/
theorem rtuSend_eq_rtuSent (hopen : s.rm.bs.state = .opened) (hq : q.Carries data first second) :
    s.rtuSend q = rtuSent s q.fc q.fc.code data first second := by
  rw [State.rtuSend, Channel.write_eq, if_pos hopen, hq.data_eq, hq.params_eq]
  rfl

/-- The counter after its increment (R324). -/
theorem TcpMaster.nextTxn_eq (m : TcpMaster) : m.nextTxn = BitVec.ofNat 16 (m.txn.toNat + 1) := by
  simp [TcpMaster.nextTxn, BitVec.ofNat_add]

/-- The send step of the TCP master. -/
theorem tcpSend_eq_tcpSent (hq : q.Carries data first second) :
    s.tcpSend q = tcpSent s q.fc q.fc.code data first second := by
  rw [State.tcpSend, TcpMaster.nextTxn_eq, hq.data_eq, hq.params_eq]
  rfl

theorem RtuMaster.refuses_eq_false (hready : rtuReady s) (hlegal : q.legal = true) : s.rm.refuses q = false :=
  Bool.eq_false_iff.2 ((rtuMaster_refuses_iff ..).not.2 (not_not.2 ⟨hready.1, hready.2, hlegal⟩))

theorem TcpMaster.refuses_eq_false (hready : tcpReady s) (hlegal : q.legal = true) : s.tm.refuses q = false :=
  Bool.eq_false_iff.2 ((tcpMaster_refuses_iff ..).not.2 (not_not.2 ⟨hready.1, hready.2, hlegal⟩))

theorem rtuCall_of_ready (hready : rtuReady s) (hq : q.Carries data first second) :
    s.rtuCall q = rtuSent s q.fc q.fc.code data first second := by
  rw [State.rtuCall, RtuMaster.refuses_eq_false hready hq.legal, if_neg Bool.false_ne_true, rtuSend_eq_rtuSent hready.2 hq]

theorem tcpCall_of_ready (hready : tcpReady s) (hq : q.Carries data first second) :
    s.tcpCall q = tcpSent s q.fc q.fc.code data first second := by
  rw [State.tcpCall, TcpMaster.refuses_eq_false hready hq.legal, if_neg Bool.false_ne_true, tcpSend_eq_tcpSent hq]

/-- The request form of a wire row of the RTU master is its send step (log 15). -/
theorem rtuWire_of_request {Req : Type} (fc : FunctionCode) (request : Req → Request) (r : Req) (hready : rtuReady s)
    (hq : (request r).Carries data first second) :
    s.rtuWire fc request (.request r) = rtuSent s (request r).fc (request r).fc.code data first second := by
  simp only [State.rtuWire, RtuMaster.refuses_eq_false hready hq.legal, Bool.false_eq_true, if_false,
    rtuSend_eq_rtuSent hready.2 hq]

/-- The request form of a wire row of the TCP master is its send step (log 15). -/
theorem tcpWire_of_request {Req : Type} (fc : FunctionCode) (request : Req → Request) (r : Req) (hready : tcpReady s)
    (hq : (request r).Carries data first second) :
    s.tcpWire fc request (.request r) = tcpSent s (request r).fc (request r).fc.code data first second := by
  simp only [State.tcpWire, TcpMaster.refuses_eq_false hready hq.legal, Bool.false_eq_true, if_false, tcpSend_eq_tcpSent hq]

/-- A refused request operation of the RTU master answers its failure result (R302). -/
theorem rtuCall_of_refused (h : ¬ rtuReady s ∨ q.legal ≠ true) :
    s.rtuCall q = traced s [] [returned .rtuMaster (0x40#8 + q.fc.slot) q.fc.failure] := by
  have hrefuses : s.rm.refuses q = true := (rtuMaster_refuses_iff ..).2 fun ⟨hidle, hopen, hlegal⟩ =>
    h.elim (· ⟨hidle, hopen⟩) (· hlegal)
  rw [State.rtuCall, if_pos hrefuses, State.ret_eq_traced]

/-- A refused request operation of the TCP master answers its failure result (R321). -/
theorem tcpCall_of_refused (h : ¬ tcpReady s ∨ q.legal ≠ true) :
    s.tcpCall q = traced s [] [returned .tcpMaster (0x50#8 + q.fc.slot) q.fc.failure] := by
  have hrefuses : s.tm.refuses q = true := (tcpMaster_refuses_iff ..).2 fun ⟨hidle, hconn, hlegal⟩ =>
    h.elim (· ⟨hidle, hconn⟩) (· hlegal)
  rw [State.tcpCall, if_pos hrefuses, State.ret_eq_traced]

end

end Sys2Proof.Machine

/-- Settles O40: each operation is `rtuCall` of its request. -/
theorem rtuMasterSendsRequests : Obligations.RtuMasterSendsRequests := by
  intro s hready
  refine ⟨fun start count hstart hmin hmax hword => ?bits, fun start count hstart hmin hmax => ?registers,
    fun addr haddr => ?coil, fun addr value haddr => ?register, fun start values hstart hmin hmax => ?coils,
    fun start values hstart hmin hmax => ?registerRun⟩
  case bits =>
    constructor <;> exact congrArg _ (rtuCall_of_ready hready (readRequest_carries _ hstart hword hmin hmax))
  case registers =>
    have hword : count ≤ 65535 := by omega
    constructor <;> exact congrArg _ (rtuCall_of_ready hready (readRequest_carries _ hstart hword hmin hmax))
  case coil =>
    exact ⟨congrArg _ (rtuCall_of_ready hready (coilRequest_carries true haddr)),
      congrArg _ (rtuCall_of_ready hready (coilRequest_carries false haddr))⟩
  case register => exact congrArg _ (rtuCall_of_ready hready (registerRequest_carries value haddr))
  case coils => exact congrArg _ (rtuCall_of_ready hready (coilsRequest_carries hstart hmin hmax))
  case registerRun => exact congrArg _ (rtuCall_of_ready hready (registersRequest_carries hstart hmin hmax))

/-- Settles O44: each operation is `tcpCall` of its request. -/
theorem tcpMasterSendsRequests : Obligations.TcpMasterSendsRequests := by
  intro s hready
  refine ⟨fun start count hstart hmin hmax hword => ?bits, fun start count hstart hmin hmax => ?registers,
    fun addr haddr => ?coil, fun addr value haddr => ?register, fun start values hstart hmin hmax => ?coils,
    fun start values hstart hmin hmax => ?registerRun⟩
  case bits =>
    constructor <;> exact congrArg _ (tcpCall_of_ready hready (readRequest_carries _ hstart hword hmin hmax))
  case registers =>
    have hword : count ≤ 65535 := by omega
    constructor <;> exact congrArg _ (tcpCall_of_ready hready (readRequest_carries _ hstart hword hmin hmax))
  case coil =>
    exact ⟨congrArg _ (tcpCall_of_ready hready (coilRequest_carries true haddr)),
      congrArg _ (tcpCall_of_ready hready (coilRequest_carries false haddr))⟩
  case register => exact congrArg _ (tcpCall_of_ready hready (registerRequest_carries value haddr))
  case coils => exact congrArg _ (tcpCall_of_ready hready (coilsRequest_carries hstart hmin hmax))
  case registerRun => exact congrArg _ (tcpCall_of_ready hready (registersRequest_carries hstart hmin hmax))

/-- Settles O47: the request form of a row carries what its operation carries. -/
theorem wireRequestsAreSent : Obligations.WireRequestsAreSent := by
  constructor
  case left =>
    intro s hready
    refine ⟨fun q hmin hmax => ⟨?_, ?_⟩, fun q hmin hmax => ⟨?_, ?_⟩, fun q => ?coil, fun q => ?register,
      fun q hmin hmax => ?coils, fun q hmin hmax => ?registerRun⟩
    case coil => exact congrArg _ (rtuWire_of_request _ _ q hready (coilReq_carries q))
    case register => exact congrArg _ (rtuWire_of_request _ _ q hready (regReq_carries q))
    case coils => exact congrArg _ (rtuWire_of_request _ _ q hready (coilsReq_carries q hmin hmax))
    case registerRun => exact congrArg _ (rtuWire_of_request _ _ q hready (regsReq_carries q hmin hmax))
    all_goals exact congrArg _ (rtuWire_of_request _ _ q hready (readReq_carries _ q hmin hmax))
  case right =>
    intro s hready
    refine ⟨fun q hmin hmax => ⟨?_, ?_⟩, fun q hmin hmax => ⟨?_, ?_⟩, fun q => ?coil, fun q => ?register,
      fun q hmin hmax => ?coils, fun q hmin hmax => ?registerRun⟩
    case coil => exact congrArg _ (tcpWire_of_request _ _ q hready (coilReq_carries q))
    case register => exact congrArg _ (tcpWire_of_request _ _ q hready (regReq_carries q))
    case coils => exact congrArg _ (tcpWire_of_request _ _ q hready (coilsReq_carries q hmin hmax))
    case registerRun => exact congrArg _ (tcpWire_of_request _ _ q hready (regsReq_carries q hmin hmax))
    all_goals exact congrArg _ (tcpWire_of_request _ _ q hready (readReq_carries _ q hmin hmax))

/-- Settles O41: on either master a request is refused when the master is not ready or an argument makes it illegal. -/
theorem refusedRequestsChangeNothing : Obligations.RefusedRequestsChangeNothing := by
  constructor
  case left =>
    intro s
    refine ⟨fun start count h => ⟨?_, ?_⟩, fun start count h => ⟨?_, ?_⟩, fun addr on value h => ⟨?coil, ?register⟩,
      fun start values h => ?coils, fun start values h => ?registerRun⟩
    case coil => exact congrArg _ (rtuCall_of_refused (h.imp_right (coilRequest_illegal on)))
    case register => exact congrArg _ (rtuCall_of_refused (h.imp_right (registerRequest_illegal value)))
    case coils => exact congrArg _ (rtuCall_of_refused (h.imp_right coilsRequest_illegal))
    case registerRun => exact congrArg _ (rtuCall_of_refused (h.imp_right registersRequest_illegal))
    all_goals exact congrArg _ (rtuCall_of_refused (h.imp_right (readRequest_illegal _)))
  case right =>
    intro s
    refine ⟨fun start count h => ⟨?_, ?_⟩, fun start count h => ⟨?_, ?_⟩, fun addr on value h => ⟨?coil, ?register⟩,
      fun start values h => ?coils, fun start values h => ?registerRun⟩
    case coil => exact congrArg _ (tcpCall_of_refused (h.imp_right (coilRequest_illegal on)))
    case register => exact congrArg _ (tcpCall_of_refused (h.imp_right (registerRequest_illegal value)))
    case coils => exact congrArg _ (tcpCall_of_refused (h.imp_right coilsRequest_illegal))
    case registerRun => exact congrArg _ (tcpCall_of_refused (h.imp_right registersRequest_illegal))
    all_goals exact congrArg _ (tcpCall_of_refused (h.imp_right (readRequest_illegal _)))
end

section
/-! The connection of the TCP master (45_masters.md R325 to R328), one rule per operation and case. -/
open Sys2Proof Sys2Proof.Machine Sys2Proof.Claims

namespace Sys2Proof.Machine

/-- The end of the connection: the stream is emptied and the outstanding request is lost. -/
theorem State.tcpDrop_eq (s : State) :
    s.tcpDrop = { s with tm := { s.tm with conn := false, rxs := [], ctx := lostContext s.tm.ctx } } := rfl

section
variable {s : State}

theorem exec_tmConnect_of_connected (hconn : s.tm.conn = true) (ok : Bool) :
    exec (.tmConnect ok) s = .next (traced s [] [returned .tcpMaster 0x58#8 (.bool true)]) := by
  simp only [exec, execTmConnect, hconn, if_true, State.ret_eq_traced]

theorem exec_tmConnect_reached (hconn : s.tm.conn = false) :
    exec (.tmConnect true) s = .next (traced { s with tm := { s.tm with conn := true, rxs := [] } }
      [⟨.tcpMaster, .connected⟩] [returned .tcpMaster 0x58#8 (.bool true)]) := by
  simp [exec, execTmConnect, hconn, State.notify_eq_traced, State.ret_eq_traced, traced_traced]

theorem exec_tmConnect_unreached (hconn : s.tm.conn = false) :
    exec (.tmConnect false) s = .next
      (traced s [⟨.tcpMaster, .error .connectionError⟩] [returned .tcpMaster 0x58#8 (.bool false)]) := by
  simp [exec, execTmConnect, hconn, State.notify_eq_traced, State.ret_eq_traced, traced_traced]

theorem exec_tmDisconnect_of_connected (hconn : s.tm.conn = true) :
    exec .tmDisconnect s =
      .next (traced s.tcpDrop [⟨.tcpMaster, .disconnected⟩] [returned .tcpMaster 0x59#8 .void]) := by
  simp [exec, execTmDisconnect, hconn, State.notify_eq_traced, State.ret_eq_traced, traced_traced]

theorem exec_tmDisconnect_of_not_connected (hconn : s.tm.conn = false) :
    exec .tmDisconnect s = .next (traced s.tcpDrop [] [returned .tcpMaster 0x59#8 .void]) := by
  simp [exec, execTmDisconnect, hconn, State.ret_eq_traced]

theorem exec_tmTcpRx_of_connected (hconn : s.tm.conn = true) (bytes : List Byte) :
    exec (.tmTcpRx bytes) s = .next { s with tm := { s.tm with rxs := s.tm.rxs ++ bytes } } :=
  congrArg _ (if_pos hconn)

theorem exec_tmTcpRx_of_not_connected (hconn : s.tm.conn = false) (bytes : List Byte) :
    exec (.tmTcpRx bytes) s = .next s :=
  congrArg _ (if_neg (Bool.not_eq_true _ ▸ hconn))

theorem exec_tmTcpPeerClose_of_connected (hconn : s.tm.conn = true) :
    exec .tmTcpPeerClose s = .next
      (traced s.tcpDrop [⟨.tcpMaster, .error .connectionError⟩, ⟨.tcpMaster, .disconnected⟩] []) := by
  simp [exec, execTmTcpPeerClose, hconn, State.notify_eq_traced, traced_traced]

theorem exec_tmTcpPeerClose_of_not_connected (hconn : s.tm.conn = false) : exec .tmTcpPeerClose s = .next s :=
  congrArg _ (if_neg (Bool.not_eq_true _ ▸ hconn))

end

end Sys2Proof.Machine

/-- Settles O46: the four operations, connected and not. -/
theorem tcpConnectionOperations : Obligations.TcpConnectionOperations := by
  intro s ok bytes
  rw [← State.tcpDrop_eq]
  exact ⟨fun hconn => ⟨exec_tmConnect_of_connected hconn ok, exec_tmDisconnect_of_connected hconn,
      exec_tmTcpRx_of_connected hconn bytes, exec_tmTcpPeerClose_of_connected hconn⟩,
    fun hconn => ⟨exec_tmConnect_reached hconn, exec_tmConnect_unreached hconn, exec_tmDisconnect_of_not_connected hconn,
      exec_tmTcpRx_of_not_connected hconn bytes, exec_tmTcpPeerClose_of_not_connected hconn⟩⟩
end

section
/-! One turn of the RTU master's wait loop (45_masters.md R305), and what the other operations leave of a request whose channel has
failed (41_bytestream.md R169). -/
open Sys2Proof Sys2Proof.Machine Sys2Proof.Claims

namespace Sys2Proof.Machine

theorem Channel.available_eq (ch : Channel) : ch.available = if ch.state = .opened then ch.rb else [] := by
  simp only [Channel.available, Channel.isOpen_iff]

theorem Channel.drained_eq (ch : Channel) :
    ch.drained = { ch with rb := if ch.state = .opened then [] else ch.rb } := by
  simp only [Channel.drained, Channel.isOpen_iff]
  split <;> rfl

/-- The bytes that have arrived, taken (R305). -/
theorem State.rtuGather_eq (s : State) (ctx : TransactionContext) :
    s.rtuGather ctx = { s with rm := { s.rm with
      bs := { s.rm.bs with rb := if s.rm.bs.state = .opened then [] else s.rm.bs.rb }
      ctx := some { ctx with resp := ctx.resp ++ if s.rm.bs.state = .opened then s.rm.bs.rb else [] } } } := by
  rw [State.rtuGather, Channel.drained_eq, Channel.available_eq]

/-- The candidate at the front of the buffer: complete, and passing the checks of R239. -/
theorem rtuCandidate_eq_some_iff (buf : List Byte) (addr : Byte) (p : RtuPdu) :
    rtuCandidate buf addr = some p ↔ ∃ len, rtuComplete buf = some len ∧ rtuCheck (buf.take len) addr = .ok p := by
  unfold rtuCandidate
  cases hlen : rtuComplete buf with
  | none => simp
  | some len => cases hcheck : rtuCheck (buf.take len) addr <;> simp [hcheck]

/-- The response a request accepts: none when its channel has failed (R169). -/
theorem TransactionContext.response_eq_some_iff (ctx : TransactionContext) (buf : List Byte) (p : RtuPdu) :
    ctx.response buf = some p ↔
      ctx.lost = false ∧ ∃ len, rtuComplete buf = some len ∧ rtuCheck (buf.take len) ctx.addr = .ok p := by
  rw [← rtuCandidate_eq_some_iff, TransactionContext.response]
  cases ctx.lost <;> simp

section
variable {s : State} {ctx : TransactionContext}

theorem exec_rmMasterPoll_of_idle (hstate : s.rm.state = .idle) : exec .rmMasterPoll s = .next s := by
  simp only [exec, execRmMasterPoll, RtuMaster.pending_of_idle hstate]

theorem exec_rmMasterPoll_of_none (hstate : s.rm.state = .awaitingResponse) (hctx : s.rm.ctx = some ctx)
    (hnone : ctx.response (ctx.resp ++ s.rm.bs.available) = none) :
    exec .rmMasterPoll s = .next ((s.rtuGather ctx).rtuDeadline ctx) := by
  simp only [exec, execRmMasterPoll, RtuMaster.pending_of_awaiting hstate, hctx, hnone]

/-- At its deadline a request ends with the failure result (R304). -/
theorem rtuDeadline_of_due (h : ctx.deadline ≤ s.now) : s.rtuDeadline ctx = rtuEnded s ctx ctx.fc.failure := by
  rw [State.rtuDeadline, if_pos h, rtuFinish_eq_rtuEnded, resultOf]

theorem rtuDeadline_of_early (h : s.now < ctx.deadline) : s.rtuDeadline ctx = s := if_neg (Nat.not_le.2 h)

/-! A request whose channel has failed. -/

theorem rtuCall_of_awaiting (hstate : s.rm.state = .awaitingResponse) (q : Request) : (s.rtuCall q).rm = s.rm := by
  rw [rtuCall_of_refused (.inl fun hready => by simp [rtuReady, hstate] at hready)]
  rfl

theorem RtuMaster.pending_lost {m : RtuMaster} (hctx : m.ctx = some ctx) (hlost : ctx.lost = true) :
    ∀ c, m.pending = some c → c.lost = true :=
  RtuMaster.pending_forall (.inr (.inr ⟨ctx, hctx, hlost⟩))

section
variable (hstate : s.rm.state = .awaitingResponse) (hctx : s.rm.ctx = some ctx) (hlost : ctx.lost = true)
include hstate hctx hlost

/-- A lost request takes no wire row. -/
theorem rtuWire_of_lost {Req : Type} (fc : FunctionCode) (request : Req → Request) (m : RtuMsg Req) :
    s.rtuWire fc request m = s := by
  cases m with
  | request q => exact if_pos ((rtuMaster_refuses_iff ..).2 (by simp [hstate]))
  | response unit data =>
    exact rtuWire_ignores fc request data fun c hc => .inl (RtuMaster.pending_lost hctx hlost c hc)

/-- An operation of the RTU master other than the poll leaves a lost request and its channel as they are. -/
theorem rtuMaster_unchanged_of_lost {i : Instr} {t : State} (hpart : changedPart i = some .rtuMaster)
    (hpoll : i ≠ .rmMasterPoll) (h : exec i s = .next t) : t.rm = s.rm := by
  cases i
  case exceptionResponseDecode link fc code =>
    cases link
    · obtain rfl := Host.Outcome.next.inj h
      exact congrArg State.rm (rtuException_ignores code fc (RtuMaster.pending_lost hctx hlost))
    · cases hpart
  all_goals obtain rfl := Host.Outcome.next.inj h
  case rtuReadCoils | rtuReadDiscreteInputs | rtuReadHoldingRegisters | rtuReadInputRegisters | rtuWriteSingleCoil |
      rtuWriteSingleRegister | rtuWriteMultipleCoils | rtuWriteMultipleRegisters =>
    exact congrArg State.rm (rtuWire_of_lost hstate hctx hlost ..)
  case rmReadCoils | rmReadDiscreteInputs | rmReadHoldingRegisters | rmReadInputRegisters | rmWriteSingleCoil |
      rmWriteSingleRegister | rmWriteMultipleCoils | rmWriteMultipleRegisters =>
    exact rtuCall_of_awaiting hstate _
  case rmMasterPoll => exact absurd rfl hpoll
  all_goals cases hpart

/-- No operation but the poll ends a lost request. -/
theorem rtuMaster_awaits_of_ne_poll {i : Instr} {t : State} (hpoll : i ≠ .rmMasterPoll) (h : exec i s = .next t) :
    t.rm.state = .awaitingResponse := by
  have hparts := exec_onlyChanges i s t h
  by_cases hrm : t.rm = s.rm
  · rw [hrm, hstate]
  · rcases hparts.part_of_rm_ne hrm with hpart | hpart
    · exact absurd (rtuMaster_unchanged_of_lost hstate hctx hlost hpart hpoll h) hrm
    · rw [hpart] at hparts
      exact (hparts.reads (·.rm.state)).trans hstate

/-- A lost request that has not ended stays lost, and gathers bytes at most. -/
theorem effect_keeps_lost_rtu_request {t : State} (h : Effect s t) (hawaits : t.rm.state = .awaitingResponse) :
    ∃ resp, t.rm.ctx = some { ctx with resp := resp } := by
  have hsame : ∀ {c : Option TransactionContext}, c = s.rm.ctx → ∃ resp, c = some { ctx with resp := resp } :=
    fun hc => ⟨ctx.resp, hc.trans hctx⟩
  cases h
  case chan c ch notes results move => exact hsame (State.setChan_rm_ctx s c ch)
  case chanBreaks c notes hopen =>
    cases c
    case master =>
      refine ⟨ctx.resp, ?_⟩
      change s.rm.ctx.map TransactionContext.lose = some ctx
      rw [hctx, Option.map_some, TransactionContext.lose_of_lost hlost]
    all_goals exact hsame rfl
  case slaveRuns heffect | slaveFires _ heffect =>
    obtain ⟨_, _, _, -, rfl⟩ := heffect
    exact hsame rfl
  case rtuSends q hidle hopen => simp [RtuMaster.isIdle, hstate] at hidle
  case rtuGathers ctx' hpending =>
    obtain rfl := Option.some.inj ((RtuMaster.ctx_of_pending hpending).symm.trans hctx)
    exact ⟨_, rfl⟩
  case rtuEnds => cases hawaits
  all_goals exact hsame rfl

/-- The poll of a lost request accepts nothing: before the deadline the wait goes on. -/
theorem exec_rmMasterPoll_of_lost : exec .rmMasterPoll s = .next ((s.rtuGather ctx).rtuDeadline ctx) :=
  exec_rmMasterPoll_of_none hstate hctx (if_pos hlost)

/-- Only the poll at or after its deadline ends a lost request. -/
theorem exec_keeps_lost_rtu_request {i : Instr} {t : State} (h : exec i s = .next t) :
    (i = .rmMasterPoll ∧ ctx.deadline ≤ s.now) ∨
      (t.rm.state = .awaitingResponse ∧ ∃ resp, t.rm.ctx = some { ctx with resp := resp }) := by
  by_cases hdue : i = .rmMasterPoll ∧ ctx.deadline ≤ s.now
  · exact .inl hdue
  · have hawaits : t.rm.state = .awaitingResponse := by
      by_cases hpoll : i = .rmMasterPoll
      · subst hpoll
        have hearly : s.now < ctx.deadline := Nat.lt_of_not_le fun hle => hdue ⟨rfl, hle⟩
        obtain rfl := Host.Outcome.next.inj (h.symm.trans (exec_rmMasterPoll_of_lost hstate hctx hlost))
        rw [rtuDeadline_of_early (s := s.rtuGather ctx) hearly]
        exact hstate
      · exact rtuMaster_awaits_of_ne_poll hstate hctx hlost hpoll h
    exact .inr ⟨hawaits, effect_keeps_lost_rtu_request hstate hctx hlost (exec_effect i s t h) hawaits⟩

end

end

end Sys2Proof.Machine

/-- Settles O42: the accepted responses are those of `TransactionContext.response`, and no other operation reaches a lost
request. -/
theorem masterPollTurn : Obligations.MasterPollTurn := by
  refine ⟨fun s ctx hstate hctx => ?turn,
    fun i s t ctx h hstate hctx hlost => exec_keeps_lost_rtu_request hstate hctx hlost h,
    fun s => exec_rmMasterPoll_of_idle⟩
  case turn =>
    intro got buf taken accepted
    have htaken : s.rtuGather ctx = taken := s.rtuGather_eq ctx
    have haccepted : ∀ p, ctx.response (ctx.resp ++ s.rm.bs.available) = some p ↔ accepted p := fun p => by
      rw [Channel.available_eq]
      exact ctx.response_eq_some_iff buf p
    have hfound : ∀ p, accepted p → exec .rmMasterPoll s = .next (taken.rtuConclude ctx p.fc p.data) := fun p hp => by
      rw [← htaken]
      exact exec_rmMasterPoll_of_response hstate hctx ((haccepted p).2 hp)
    have hnone : (∀ p, ¬ accepted p) → exec .rmMasterPoll s = .next (taken.rtuDeadline ctx) := fun hno => by
      rw [← htaken]
      exact exec_rmMasterPoll_of_none hstate hctx
        (Option.eq_none_iff_forall_ne_some.2 fun p hp => hno p ((haccepted p).1 hp))
    refine ⟨fun p hp => ⟨fun code more hbit hdata => ?exception, fun fc hfc => ?normal⟩, fun hno hdue => ?timeout,
      fun hno hearly => ?waits⟩
    case exception => rw [hfound p hp, hdata, rtuConclude_of_exception taken ctx hbit]
    case normal => rw [hfound p hp, hfc, rtuConclude_code]
    case timeout => rw [hnone hno, rtuDeadline_of_due (s := taken) hdue]
    case waits => rw [hnone hno, rtuDeadline_of_early (s := taken) hearly]
end

section
/-! Nothing stops the block (60_exceptions.md R346): every operation answers a next state, and so does every step but the one
whose input is a record that encodes no operation. -/
open Sys2Proof Sys2Proof.Machine

namespace Sys2Proof.Machine

/-- Each arm of the dispatch is the meaning of its operation, and each meaning is `.next` of a state. -/
theorem exec_eq_next (i : Instr) (s : State) : ∃ t, exec i s = .next t := by
  cases i <;> exact ⟨_, rfl⟩

theorem takeInput_undecodable {s : State} {bytes : List Byte} {rest : List Input} {e : DecodeError}
    (hinbox : s.inbox = .operation bytes :: rest) (hdecode : decode bytes = .error e) :
    takeInput s = .refused (.notAnOperation e) := by
  simp only [takeInput, hinbox, hdecode]

/-- The inputs by their kind: only an operation's record can be refused, and only where it does not decode. -/
theorem takeInput_next_or_undecodable (s : State) :
    (∃ t, takeInput s = .next t) ∨
      ∃ bytes rest e, s.inbox = .operation bytes :: rest ∧ decode bytes = .error e ∧
        takeInput s = .refused (.notAnOperation e) := by
  cases hinbox : s.inbox with
  | nil => exact .inl ⟨_, takeInput_nil s hinbox⟩
  | cons input rest =>
    cases input with
    | configure w => exact .inl ⟨_, takeInput_configure s w rest hinbox⟩
    | waitReturns k => exact .inl ⟨_, takeInput_of_namesLastStep ⟨k, rest, .inl hinbox⟩⟩
    | stopReturns k => exact .inl ⟨_, takeInput_of_namesLastStep ⟨k, rest, .inr hinbox⟩⟩
    | operation bytes =>
      cases hdecode : decode bytes with
      | ok i =>
        obtain ⟨t, ht⟩ := exec_eq_next i { s with inbox := rest }
        exact .inl ⟨t, (takeInput_operation s bytes rest i hinbox hdecode).trans ht⟩
      | error e => exact .inr ⟨bytes, rest, e, rfl, hdecode, takeInput_undecodable hinbox hdecode⟩

/-- The last step of a suspended call answers a next state, so a step is refused only where `takeInput` is. -/
theorem step_next_or_undecodable (s : State) :
    (∃ t, step s = .next t) ∨
      ∃ bytes rest e, s.inbox = .operation bytes :: rest ∧ decode bytes = .error e ∧
        step s = .refused (.notAnOperation e) := by
  cases hc : s.chosenReturn with
  | some t => exact .inl ⟨t, step_of_chosenReturn hc⟩
  | none =>
    cases hm : s.mustReturn with
    | some t => exact .inl ⟨t, step_of_mustReturn hc hm⟩
    | none =>
      rw [step_of_noReturn s hc hm]
      exact takeInput_next_or_undecodable s

end Sys2Proof.Machine

/-- Settles O5: a step answers a next state or refuses an undecodable record with the decoder's reason, so it never faults. -/
theorem nothingStopsTheBlock : Obligations.NothingStopsTheBlock := by
  refine ⟨exec_eq_next, fun s f hfault => ?fault, fun s r hrefused => ?refused⟩
  case fault =>
    obtain ⟨t, hnext⟩ | ⟨_, _, e, -, -, hstep⟩ := step_next_or_undecodable s
    · cases hnext.symm.trans hfault
    · cases hstep.symm.trans hfault
  case refused =>
    obtain ⟨t, hnext⟩ | ⟨bytes, rest, e, hinbox, hdecode, hstep⟩ := step_next_or_undecodable s
    · cases hnext.symm.trans hrefused
    · exact ⟨bytes, rest, e, hinbox, hdecode, Host.Outcome.refused.inj (hrefused.symm.trans hstep)⟩
end

section
/-! The reset state (70_reset_and_hazards.md R381): the invariants unit by unit, and the values. -/
open Sys2Proof Sys2Proof.Machine

namespace Sys2Proof.Machine

/-- All three channels are created alike. -/
@[simp] theorem State.chan_reset (c : Chan) : State.reset.chan c = Channel.reset := by cases c <;> rfl

theorem legalUnit_unitReset : legalUnit Config.unitReset.toNat = true := (legalUnit_iff _).2 (by decide)

/-- A channel is created closed and empty. -/
theorem reset_channelsOk : State.reset.channelsOk := fun c => by
  rw [State.chan_reset]
  exact Channel.ok_of_empty rfl rfl rfl

/-- The path is not started, so the facts about a started one ask nothing, and no `stop` call is suspended. -/
theorem reset_canOk : State.reset.canOk := by
  have hqcap : 1 ≤ Config.canQcap := by decide
  have hvcap : 1 ≤ Config.canVcap := by decide
  have hnotStarted : State.reset.can.started ≠ true := by decide
  exact ⟨hqcap, hvcap, Nat.zero_le _, Nat.zero_le _, Nat.le_refl _, fun _ _ => rfl,
    fun hstarted => absurd hstarted hnotStarted, fun hstarted => absurd hstarted hnotStarted, List.forall_mem_nil _⟩

/-- The gap timer is not armed and no byte is assembled; both banks are created with the one length. -/
theorem reset_slaveOk : State.reset.slaveOk := by
  have hnotArmed : State.reset.sl.gapArmed ≠ true := by decide
  exact ⟨legalUnit_unitReset, iff_of_false hnotArmed (not_not_intro rfl), fun harmed => absurd harmed hnotArmed, rfl⟩

/-- Both masters are idle, so neither has a context. -/
theorem reset_mastersOk : State.reset.mastersOk :=
  (mastersOk_iff _).2
    ⟨requestOk_idle legalUnit_unitReset, requestOk_idle legalUnit_unitReset, fun _ hctx => by cases hctx⟩

/-- Every register of a bank holds BANK_RESET. -/
theorem getElem?_resetBank {a : Nat} (ha : a < 256) :
    (List.replicate Config.bankLen Config.bankReset)[a]? = some 0x0000#16 :=
  List.getElem?_replicate_of_lt ha

end Sys2Proof.Machine

/-- Settles O54: each unit is created idle and empty, with legal values in its configuration fields. -/
theorem resetIsSafe : Obligations.ResetIsSafe := ⟨reset_channelsOk, reset_canOk, reset_slaveOk, reset_mastersOk⟩

/-- Settles O60: a scalar element is the constant `State.reset` writes; the three channels are one, and the registers of a
bank are copies of one word. -/
theorem resetValues : Obligations.ResetValues := by
  have hchannels (c : Chan) : (State.reset.chan c).state = .closed ∧ (State.reset.chan c).rb = [] ∧
      (State.reset.chan c).wq = [] ∧ (State.reset.chan c).tx = [] := by
    rw [State.chan_reset]
    exact ⟨rfl, rfl, rfl, rfl⟩
  have hbanks (a : Nat) (ha : a < 256) :
      State.reset.sl.hr[a]? = some 0x0000#16 ∧ State.reset.sl.ir[a]? = some 0x0000#16 :=
    ⟨getElem?_resetBank ha, getElem?_resetBank ha⟩
  have hlen : (List.replicate Config.bankLen Config.bankReset).length = 256 := List.length_replicate
  refine ⟨rfl, rfl, rfl, hchannels, ?_⟩
  -- the CAN unit
  refine ⟨rfl, rfl, rfl, rfl, rfl, rfl, rfl, rfl, rfl, rfl, ?_⟩
  -- the slave
  refine ⟨rfl, rfl, rfl, rfl, hbanks, hlen, hlen, ?_⟩
  -- the masters
  refine ⟨rfl, rfl, rfl, rfl, rfl, rfl, rfl, rfl, rfl, rfl, ?_⟩
  -- the parameters of the run
  exact ⟨rfl, rfl, rfl, rfl, rfl, rfl, rfl⟩
end
